-- ==== Sys2Proof/Word.lean ====
section
/-! DEFINITION. The two widths of the block: the byte of a frame and the 16-bit word of a field or a checksum
(00_scope R7 `WORD_W`, R9: every value is unsigned). -/

namespace Sys2Proof

/-- A byte of a frame, bits 7 down to 0 (R10). -/
abbrev Byte := BitVec 8

/-- A 16-bit unsigned word: a field of a reading or a checksum (R7, R10). -/
abbrev Word := BitVec 16

end Sys2Proof
end

