-- ==== Sys2Proof/Config.lean ====
section
/-! DEFINITION. The constants of this hardware (00_scope R7), and what the spec leaves open as values nobody
chose (R8, R50; 93_implementation_defined U12, U18): opaque constants without a body. -/

namespace Sys2Proof.Config

/-- `FRAME_LEN` (R7): bytes in a data frame. -/
def frameLen : Nat := 32
/-- `START0` (R7). -/
def start0 : Byte := 0x42
/-- `START1` (R7). -/
def start1 : Byte := 0x4D
/-- `PAYLOAD_OFF` (R7): offset of the first payload byte. -/
def payloadOff : Nat := 2
/-- `PAYLOAD_LEN` (R7). -/
def payloadLen : Nat := 28
/-- `N_PAYLOAD_WORDS` (R7). -/
def nPayloadWords : Nat := 14
/-- `N_FIELDS` (R7, 90_conflicts C4): the payload words and the transmitted checksum. -/
def nFields : Nat := 15
/-- `RX_CHK_COVER` (R7): the data-frame checksum sums offsets 0 to 29. -/
def rxChkCover : Nat := 30
/-- `RX_CHK_OFF` (R7): offset of the transmitted checksum's high byte. -/
def rxChkOff : Nat := 30
/-- `CMD_LEN` (R7): bytes in a control command. -/
def cmdLen : Nat := 7
/-- `TX_CHK_COVER` (R7): the command checksum sums offsets 0 to 4. -/
def txChkCover : Nat := 5
/-- `CMD_ID_MODE` (R7): command id of set-active and set-passive. -/
def cmdIdMode : Byte := 0xE1
/-- `CMD_ID_POWER` (R7): command id of sleep and wake. -/
def cmdIdPower : Byte := 0xE4
/-- `N_COMMANDS` (R7, 90_conflicts C1). -/
def nCommands : Nat := 4
/-- Line settings the transport must have (R7, R273): baud rate; the block cannot check it. -/
def lineBaud : Nat := 9600
/-- Line settings the transport must have (R7, R273): data bits; no parity, one stop bit. -/
def lineDataBits : Nat := 8

/-- FREE VALUE (log entry 3): `RXBUF_RESET`, the byte at an offset of `rx_buf` that nothing has written since the
`n`-th Reset (R8, R50: "unspecified", "any 32 bytes"). -/
opaque rxbufReset (n : Nat) (offset : BitVec 5) : Byte

/-- FREE VALUE (log entry 4): `CmdByte(sel, 7)`, outside the domain R131 gives the function; `tx_cnt` "7 is never
reached" (R30). -/
opaque cmdByteBeyond (sel : BitVec 2) : Byte

/-- `F_CLK` (R8, R49, U18; log entry 10): a named argument that no rule, and no definition of the model, reads. -/
opaque fClk : Nat

end Sys2Proof.Config
end

