-- ==== Sys2Proof/Syntax.lean ====
section
/-! DEFINITION. The instructions: one constructor per row of spec/opcode_table.json (30_encoding R100, R102, R103).
Four outbound commands without operands (R96) and the one inbound frame, whose operands are fifteen words (R92). -/

namespace Sys2Proof

/-- The fifteen 16-bit words of a data frame, and of the reading registers `F[0..14]`, in the order and with the
names of 10_state R23. -/
structure Fields where
  /-- `F[0]` FRAMELEN. -/
  framelen : Word
  /-- `F[1]` PM1_0_CF1. -/
  pm1_0Cf1 : Word
  /-- `F[2]` PM2_5_CF1. -/
  pm2_5Cf1 : Word
  /-- `F[3]` PM10_CF1. -/
  pm10Cf1 : Word
  /-- `F[4]` PM1_0_ATM. -/
  pm1_0Atm : Word
  /-- `F[5]` PM2_5_ATM. -/
  pm2_5Atm : Word
  /-- `F[6]` PM10_ATM. -/
  pm10Atm : Word
  /-- `F[7]` CNT_GT0_3. -/
  cntGt0_3 : Word
  /-- `F[8]` CNT_GT0_5. -/
  cntGt0_5 : Word
  /-- `F[9]` CNT_GT1_0. -/
  cntGt1_0 : Word
  /-- `F[10]` CNT_GT2_5. -/
  cntGt2_5 : Word
  /-- `F[11]` CNT_GT5_0. -/
  cntGt5_0 : Word
  /-- `F[12]` CNT_GT10. -/
  cntGt10 : Word
  /-- `F[13]` RESERVED: passed through, any value (30_encoding R105 (c)). -/
  reserved : Word
  /-- `F[14]` CHECKSUM: the transmitted checksum, right or wrong (41_frame_parser R165). -/
  checksum : Word
  deriving DecidableEq, Repr

/-- `F[k]`, k in 0 to 14 (00_scope R11). -/
def Fields.get (f : Fields) (k : Fin 15) : Word :=
  match k with
  | 0 => f.framelen
  | 1 => f.pm1_0Cf1
  | 2 => f.pm2_5Cf1
  | 3 => f.pm10Cf1
  | 4 => f.pm1_0Atm
  | 5 => f.pm2_5Atm
  | 6 => f.pm10Atm
  | 7 => f.cntGt0_3
  | 8 => f.cntGt0_5
  | 9 => f.cntGt1_0
  | 10 => f.cntGt2_5
  | 11 => f.cntGt5_0
  | 12 => f.cntGt10
  | 13 => f.reserved
  | 14 => f.checksum

/-- The fifteen words given by index: "for k in 0..14" of R165. -/
def Fields.ofFn (g : Fin 15 → Word) : Fields where
  framelen := g 0
  pm1_0Cf1 := g 1
  pm2_5Cf1 := g 2
  pm10Cf1 := g 3
  pm1_0Atm := g 4
  pm2_5Atm := g 5
  pm10Atm := g 6
  cntGt0_3 := g 7
  cntGt0_5 := g 8
  cntGt1_0 := g 9
  cntGt2_5 := g 10
  cntGt5_0 := g 11
  cntGt10 := g 12
  reserved := g 13
  checksum := g 14

/-- The direction of a frame on the link, which alone tells its format (30_encoding R90). -/
inductive Direction where
  /-- Format CMD: 7 bytes, host to sensor. -/
  | hostToSensor
  /-- Format DATA: 32 bytes, sensor to host. -/
  | sensorToHost
  deriving DecidableEq, Repr

/-- The instructions of spec/opcode_table.json. -/
inductive Instr where
  /-- `SET_PASSIVE` (R140). -/
  | setPassive
  /-- `SET_ACTIVE` (R141). -/
  | setActive
  /-- `SLEEP` (R142). -/
  | sleep
  /-- `WAKE` (R143). -/
  | wake
  /-- `DATA` with its fifteen operand words (R92, R165). -/
  | data (ws : Fields)
  deriving DecidableEq, Repr

/-- The direction of each instruction's frame (R90, R108). -/
def Instr.direction (i : Instr) : Direction :=
  match i with
  | .setPassive => .hostToSensor
  | .setActive => .hostToSensor
  | .sleep => .hostToSensor
  | .wake => .hostToSensor
  | .data _ => .sensorToHost

/-- A frame as a list of bytes in transmission order, offset 0 first (00_scope R9). -/
abbrev Frame := List Byte

end Sys2Proof
end

