-- ==== Sys2Proof/WellFormed.lean ====
section
/-! DEFINITION. Which byte sequences are frames of the protocol, by the field tables of 30_encoding R91 and R92,
stated with natural-number arithmetic and without the decoder. Every term of `Instr` is a legal instruction: a command
has no operand (R96) and all 240 operand bits of a data frame may take any value (R102, R105), so the checks are
about frames. -/

namespace Sys2Proof

/-- The plain sum of the bytes of a frame, without a modulus. -/
def Frame.byteSum (bs : Frame) : Nat := (bs.map BitVec.toNat).sum

/-- Both start bytes stand at offsets 0 and 1 (R91, R92). -/
def Frame.startOk (bs : Frame) : Bool := bs.getD 0 0 == Config.start0 && bs.getD 1 0 == Config.start1

/-- Format CMD, field by field (R91): length, start bytes, command id, zero byte, value, big-endian checksum of
offsets 0 to 4. -/
def Frame.commandOk (bs : Frame) : Bool :=
  bs.length == Config.cmdLen && Frame.startOk bs
    && (bs.getD 2 0 == Config.cmdIdMode || bs.getD 2 0 == Config.cmdIdPower)
    && bs.getD 3 0 == 0x00
    && (bs.getD 4 0 == 0x00 || bs.getD 4 0 == 0x01)
    && Frame.byteSum (bs.take Config.txChkCover) == 256 * (bs.getD 5 0).toNat + (bs.getD 6 0).toNat

/-- Format DATA (R92, R102): 32 bytes of which the first two are the start bytes; nothing else is checked (R105). -/
def Frame.dataOk (bs : Frame) : Bool := bs.length == Config.frameLen && Frame.startOk bs

/-- A well-formed frame of the given direction (R90, R103). -/
def Frame.wellFormed (dir : Direction) (bs : Frame) : Bool :=
  match dir with
  | .hostToSensor => Frame.commandOk bs
  | .sensorToHost => Frame.dataOk bs

end Sys2Proof
end

