-- ==== Sys2Proof/Decode.lean ====
section
/-! DEFINITION. The byte-order and checksum helpers, the command frame as a function (40_command_encoder R131), the
decoder of both directions (30_encoding R103) and, after it, the encoder. The decoder reads the literal frames of R100;
the encoder is written from R131 and R92. -/

namespace Sys2Proof

/-! ### Byte order and sums -/

/-- `zext_16` of a byte (00_scope R10, 30_encoding R95). -/
def zext16 (b : Byte) : Word := b.setWidth 16

/-- `BE16(hi, lo) = {hi, lo}` (00_scope R13, 20_memory R60, 30_encoding R93). -/
def be16 (hi lo : Byte) : Word := hi ++ lo

/-- Bits 15:8 of a word (30_encoding R94). -/
def hiByte (w : Word) : Byte := w.extractLsb' 8 8

/-- Bits 7:0 of a word (30_encoding R94). -/
def loByte (w : Word) : Byte := w.extractLsb' 0 8

/-- `Sum16` (00_scope R13): the bytes, each zero-extended, added modulo 2^16 (R134, R168). -/
def sum16 : List Byte → Word
  | [] => 0
  | b :: bs => zext16 b + sum16 bs

/-! ### The command frame space -/

/-- `cmd_id` of a select code: 0xE4 if sel[1] = 1 else 0xE1 (R101, R131). -/
def cmdId (sel : BitVec 2) : Byte := if sel.getLsbD 1 then Config.cmdIdPower else Config.cmdIdMode

/-- `value` of a select code: zext_8(sel[0]) (R101, R131). -/
def cmdValue (sel : BitVec 2) : Byte := (sel.extractLsb' 0 1).setWidth 8

/-- Bytes 0 to 4 of the command selected by `sel` (R131). -/
def cmdHead (sel : BitVec 2) : Frame := [Config.start0, Config.start1, cmdId sel, 0x00, cmdValue sel]

/-- `Chk5(sel)` (R131). -/
def chk5 (sel : BitVec 2) : Word := sum16 (cmdHead sel)

/-- `CmdByte(sel, i)` for `i` in 0 to 6 (R131); at 7, which no rule defines and no run reaches (R30), the free value of
log entry 4. -/
def cmdByte (sel : BitVec 2) (i : BitVec 3) : Byte :=
  if i = 0 then Config.start0
  else if i = 1 then Config.start1
  else if i = 2 then cmdId sel
  else if i = 3 then 0x00
  else if i = 4 then cmdValue sel
  else if i = 5 then hiByte (chk5 sel)
  else if i = 6 then loByte (chk5 sel)
  else Config.cmdByteBeyond sel

/-- The seven bytes of a command, in wire order (20_memory R63, R70). -/
def commandFrame (sel : BitVec 2) : Frame :=
  [cmdByte sel 0, cmdByte sel 1, cmdByte sel 2, cmdByte sel 3, cmdByte sel 4, cmdByte sel 5, cmdByte sel 6]

/-- The command a select code names (R101). All four codes are used. -/
def decodeSelect (sel : BitVec 2) : Instr :=
  if sel = 0 then .setPassive else if sel = 1 then .setActive else if sel = 2 then .sleep else .wake

/-- The select code of a command (R101); a data frame has none. -/
def selectOf (i : Instr) : Option (BitVec 2) :=
  match i with
  | .setPassive => some 0
  | .setActive => some 1
  | .sleep => some 2
  | .wake => some 3
  | .data _ => none

/-! ### The data frame -/

/-- `{B[a], B[a+1]}` of a frame (R60, R93). -/
def wordAt (bs : Frame) (a : Nat) : Word := be16 (bs.getD a 0) (bs.getD (a + 1) 0)

/-- The fifteen words of a data frame: word `k` at offsets `2+2k`, `3+2k` (R64, R69, R165). -/
def fieldsOf (bs : Frame) : Fields := Fields.ofFn fun k => wordAt bs (Config.payloadOff + 2 * k.val)

/-- The big-endian bytes of a word, high byte first (R60). -/
def wordBytes (w : Word) : Frame := [hiByte w, loByte w]

/-- Offsets 2 to 29 of the frame of fifteen words: the fourteen payload words (R69, R92). -/
def payloadBytes (ws : Fields) : Frame :=
  wordBytes ws.framelen ++ wordBytes ws.pm1_0Cf1 ++ wordBytes ws.pm2_5Cf1 ++ wordBytes ws.pm10Cf1
    ++ wordBytes ws.pm1_0Atm ++ wordBytes ws.pm2_5Atm ++ wordBytes ws.pm10Atm
    ++ wordBytes ws.cntGt0_3 ++ wordBytes ws.cntGt0_5 ++ wordBytes ws.cntGt1_0
    ++ wordBytes ws.cntGt2_5 ++ wordBytes ws.cntGt5_0 ++ wordBytes ws.cntGt10 ++ wordBytes ws.reserved

/-- Offsets 0 to 29: what the checksum covers (R62, R164). -/
def coveredBytes (ws : Fields) : Frame := [Config.start0, Config.start1] ++ payloadBytes ws

/-! ### Decoder -/

/-- Why bytes are no instruction, by name. -/
inductive Reject where
  /-- Fewer bytes than the format has: the decoder was given `got` of them (R90). -/
  | short (got : Nat)
  /-- Seven outbound bytes that are none of the four command frames (R103, R106). -/
  | notACommand
  /-- A 32-byte group without the start bytes: `got = {byte 0, byte 1}` (R103, R104). -/
  | badStart (got : Word)
  deriving DecidableEq, Repr

/-- The answer of the decoder: an instruction and the bytes after it, or the reason there is none. -/
inductive Decoded where
  | ok (i : Instr) (rest : List Byte)
  | rejected (why : Reject)
  deriving DecidableEq, Repr

/-- The four command frames of R100, as its table lists them. -/
def commandTable : List (Frame × Instr) :=
  [([0x42, 0x4D, 0xE1, 0x00, 0x00, 0x01, 0x70], .setPassive),
   ([0x42, 0x4D, 0xE1, 0x00, 0x01, 0x01, 0x71], .setActive),
   ([0x42, 0x4D, 0xE4, 0x00, 0x00, 0x01, 0x73], .sleep),
   ([0x42, 0x4D, 0xE4, 0x00, 0x01, 0x01, 0x74], .wake)]

/-- The outbound decoder: exact match on the four patterns, everything else rejected (R103). -/
def decodeCommand (bs : List Byte) : Decoded :=
  if bs.length < Config.cmdLen then .rejected (.short bs.length)
  else match commandTable.find? (fun row => row.1 == bs.take Config.cmdLen) with
    | some row => .ok row.2 (bs.drop Config.cmdLen)
    | none => .rejected .notACommand

/-- The inbound decoder: `DATA` when the first two bytes match, else the framing error's reason; no checksum is
consulted (R102, R103, R162). -/
def decodeData (bs : List Byte) : Decoded :=
  if bs.length < Config.frameLen then .rejected (.short bs.length)
  else if bs.getD 0 0 = Config.start0 ∧ bs.getD 1 0 = Config.start1 then
    .ok (.data (fieldsOf bs)) (bs.drop Config.frameLen)
  else .rejected (.badStart (wordAt bs 0))

/-- The decoder, total on any bytes; the direction tells the format (R90). -/
def decode (dir : Direction) (bs : List Byte) : Decoded :=
  match dir with
  | .hostToSensor => decodeCommand bs
  | .sensorToHost => decodeData bs

/-! ### Encoder -/

/-- The bytes of an instruction in transmission order: a command's by R131, a data frame's by R92. -/
def encode (i : Instr) : Frame :=
  match i with
  | .setPassive => commandFrame 0
  | .setActive => commandFrame 1
  | .sleep => commandFrame 2
  | .wake => commandFrame 3
  | .data ws => coveredBytes ws ++ wordBytes ws.checksum

/-! ### Patterns of the opcode table -/

/-- The bytes of a frame given as one bit pattern: offset 0 is the most significant byte (00_scope R10; log entry 12). -/
def patternBytes (nbits w : Nat) : Frame :=
  (List.range (nbits / 8)).map fun j => BitVec.ofNat 8 (w >>> (nbits - 8 * (j + 1)))

/-- The direction of a pattern of the opcode table by its width (R90): 56 bits out, 256 bits in. -/
def patternDirection (nbits : Nat) : Option Direction :=
  if nbits = 56 then some .hostToSensor else if nbits = 256 then some .sensorToHost else none

/-- The instruction the decoder reads from a pattern of `nbits` bits numbered as spec/opcode_table.json numbers them. -/
def decodeTableWord (nbits w : Nat) : Option Instr :=
  match patternDirection nbits with
  | none => none
  | some dir =>
    match decode dir (patternBytes nbits w) with
    | .ok i _ => some i
    | .rejected _ => none

end Sys2Proof
end

