-- ==== Sys2Proof/Machine/State.lean ====
section
/-! DEFINITION. The state of the block and its host as plain data (10_state R20 to R36, R41 to R43, R50;
42_host_session R200, R201), the reasons a step can stop, and the state after reset. -/

namespace Sys2Proof.Machine

/-- The three exceptions of the block, each with its recorded value (60_exceptions R230). An exception is an output
event: the block goes on (R231). -/
inductive Exception where
  /-- Code 1: the start bytes of a 32-byte group are wrong; `got = {byte 0, byte 1}`. -/
  | framingError (got : Word)
  /-- Code 2: the transport cannot deliver the frame; `count` bytes of it were stored. -/
  | transportReadError (count : BitVec 5)
  /-- Code 3: the transport cannot take the command; `count` bytes of it were accepted. -/
  | commandWriteError (count : BitVec 3)
  deriving DecidableEq, Repr

/-- The errors a caller of the host's operations can be given: the closed enumeration of R230. -/
inductive HostError where
  /-- One of the block's three exceptions, codes 1 to 3. -/
  | block (e : Exception)
  /-- Code 4 (R208). -/
  | sessionClosedError
  /-- Code 5 (R210). Opening the serial handle is out of scope (00_scope R6 (a)), so no step returns it. -/
  | transportOpenError
  deriving DecidableEq, Repr

/-- The rows of the table of R230 and D12, "no exception" among them. -/
inductive ExceptionName where
  /-- Code 0: no exception. -/
  | none
  /-- Code 1. -/
  | framingError
  /-- Code 2. -/
  | transportReadError
  /-- Code 3. -/
  | commandWriteError
  /-- Code 4. -/
  | sessionClosedError
  /-- Code 5. -/
  | transportOpenError
  deriving DecidableEq, Repr

/-- The output events of a step (00_scope R12). -/
inductive OutEvent where
  /-- The transport took a command byte (10_state R46). -/
  | txByte (b : Byte)
  /-- The seventh byte of a command was accepted (R136). -/
  | cmdDone
  /-- A reading was constructed (R165). -/
  | frameDone
  /-- An exception was raised (R231). -/
  | raised (e : Exception)
  deriving DecidableEq, Repr

/-- One entry of a unit's history (log entry 7): an output event, or the mark of a `CmdReq` or a `Reset`. -/
inductive Record where
  | out (e : OutEvent)
  | cmdReq (sel : BitVec 2)
  | reset
  deriving DecidableEq, Repr

/-- The frame buffer as a list of (offset, byte) pairs of the written cells (log entry 3). -/
abbrev Memory := List Host.Cell

/-- The RX unit (10_state R22). -/
structure RxUnit where
  /-- `rx_cnt`, 5 bits (R24). -/
  cnt : BitVec 5
  /-- `rx_buf[0..31]` (R25): the cells written since the last Reset. -/
  buf : Memory
  /-- The number of the Reset the free bytes of the buffer belong to (log entry 3; the model's own). -/
  bufDraw : Nat
  /-- The reading registers `F[0..14]` (R23, R26). -/
  f : Fields
  /-- `rd_chk_valid` (R28). -/
  chkValid : Bool
  /-- `rd_present` (R29). -/
  present : Bool
  /-- The output events of the last edge: the strobes `rd_valid`, `err_framing`, `err_rx_transport` with their values
  (R42, R43). -/
  out : List OutEvent
  /-- The unit's history, newest first (R17, R243; log entry 7; the model's own). -/
  log : List Record
  deriving DecidableEq, Repr

/-- The TX unit (10_state R22). -/
structure TxUnit where
  /-- `tx_busy` (R31). -/
  busy : Bool
  /-- `tx_sel`, 2 bits (R32). -/
  sel : BitVec 2
  /-- `tx_cnt`, 3 bits (R30). -/
  cnt : BitVec 3
  /-- The output events of the last edge: the accepted byte and the strobes `cmd_done`, `err_cmd_write` with its value
  (R42, R43, R46). -/
  out : List OutEvent
  /-- The unit's history, newest first (R17, R243; log entry 7; the model's own). -/
  log : List Record
  deriving DecidableEq, Repr

/-- The sensor's operating mode as the host stores it (00_scope R15, 42_host_session R200). -/
inductive Mode where
  | active
  | passive
  deriving DecidableEq, Repr

/-- `session_state` (42_host_session R200, R201). -/
inductive Session where
  | created
  | ready
  | sleeping
  | closed
  deriving DecidableEq, Repr

/-- The five pseudo-instructions of the host (30_encoding R109, 42_host_session R203 to R207). -/
inductive HostCall where
  /-- `initialize(mode)`. -/
  | initializeSession (mode : Mode)
  | read
  | sleep
  | wake
  | close
  deriving DecidableEq, Repr

/-- What a pseudo-instruction returns to its caller (R203 to R208). -/
inductive HostResult where
  /-- Success without a value. -/
  | done
  /-- `SensorReading{F[0..14]}` with `checksum_valid` (R204). -/
  | reading (f : Fields) (checksumValid : Bool)
  /-- A typed error (R210). -/
  | error (e : HostError)
  deriving DecidableEq, Repr

/-- A pseudo-instruction that has returned, with its result. -/
structure HostReturn where
  call : HostCall
  result : HostResult
  deriving DecidableEq, Repr

/-- Which command of which pseudo-instruction the host is sending (R203, R205, R206). -/
inductive CommandUse where
  /-- The mode command of `initialize`. -/
  | initMode
  /-- The `WAKE` of `initialize`. -/
  | initWake
  /-- The `SLEEP` of `sleep`. -/
  | sleep
  /-- The `WAKE` of `wake`. -/
  | wake
  deriving DecidableEq, Repr

/-- Whether the host still holds its request on the command port (10_state R45) or awaits the command's outcome. -/
inductive Phase where
  | requesting
  | awaiting
  deriving DecidableEq, Repr

/-- Where the host is in the expansion of a pseudo-instruction (R202: at most one at a time). -/
inductive HostTask where
  /-- No pseudo-instruction is in progress. -/
  | idle
  /-- `read` waits for the next frame outcome (R204). -/
  | reading
  /-- A command is being sent. -/
  | command (use : CommandUse) (phase : Phase)
  deriving DecidableEq, Repr

/-- A level output the host can look at (10_state R42, 42_host_session R209). -/
inductive Look where
  /-- `rd_field[k]`. -/
  | field (k : Fin 15)
  /-- `rd_chk_valid`. -/
  | chkValid
  /-- `rd_present`. -/
  | present
  deriving DecidableEq, Repr

/-- What the host saw. -/
inductive Seen where
  | field (k : Fin 15) (v : Word)
  /-- The host looked at `rd_field[k]` while `rd_present = 0`, which it may at any time and must ignore (R209): it gets no
  value, since the zeros there are no reading (10_state R27, 60_exceptions R243; log entry 16). -/
  | noReading (k : Fin 15)
  /-- The host read `F` and has its own copy of the reading and its flag (R209, 70 R283). -/
  | copied (f : Fields) (chk : Bool)
  /-- The host's read of `F` was refused, since `rd_present = 0` (60_exceptions R243; 10_state R27): it is recorded and gives
  no value, and the machine goes on (log entry 16). -/
  | readRefused
  | chkValid (b : Bool)
  | present (b : Bool)
  deriving DecidableEq, Repr

/-- The host agent (42_host_session; host state, not block state: R34). -/
structure HostAgent where
  /-- `session_state` (R200). -/
  session : Session
  /-- `mode` (R200). -/
  mode : Mode
  /-- The pseudo-instruction in progress (R202). -/
  task : HostTask
  /-- The results returned to the caller so far, newest first. -/
  returns : List HostReturn
  /-- What the host has seen at the level outputs, newest first (R209). -/
  seen : List Seen
  deriving DecidableEq, Repr

/-- The input ports as sampled at one rising edge of `clk` (10_state R40, R41). -/
structure Ports where
  rst : Bool
  rxValid : Bool
  rxData : Byte
  rxAbort : Bool
  cmdValid : Bool
  cmdSel : BitVec 2
  txReady : Bool
  txAbort : Bool
  deriving DecidableEq, Repr

/-- An edge at which nothing is presented on any port. -/
def Ports.quiet : Ports where
  rst := false
  rxValid := false
  rxData := 0
  rxAbort := false
  cmdValid := false
  cmdSel := 0
  txReady := false
  txAbort := false

/-- What the outside does next (R16, R17; log entry 2): a clock edge with its port values, or a move of the host between
edges. -/
inductive Stimulus where
  | edge (p : Ports)
  | call (c : HostCall)
  | look (l : Look)
  /-- The host reads `F` as a reading: it copies the fifteen words and the flag (R209, 70 R283, 60_exceptions R243). -/
  | readF
  deriving DecidableEq, Repr

/-- The whole machine: the two units, the host, and the choices of the outside still to come. -/
structure State where
  /-- The RX unit. -/
  rx : RxUnit
  /-- The TX unit. -/
  tx : TxUnit
  /-- The host agent. -/
  host : HostAgent
  /-- The stimuli still to come, in order (log entry 2; the model's own). -/
  inputs : List Stimulus
  deriving DecidableEq, Repr

/-- Why a step stops with a fault. There is no reason: the block's step is total (10_state R48), and its exceptions are
output events after which it goes on (60_exceptions R231, R243). -/
inductive Fault where
  deriving DecidableEq, Repr

/-- Why a step is refused. -/
inductive Refusal where
  /-- Raised by the dispatcher for an instruction without a meaning; safe. No arm raises it. -/
  | notModelled (mnemonic : String)
  /-- Raised by a host call marked "no move" in that session state (42_host_session R201, 60_exceptions R243); safe. -/
  | noMove (c : HostCall) (session : Session)
  /-- Raised by a host call while another is in progress (R202, 93 U7); safe. -/
  | callInProgress
  /-- Raised when the command port is driven while the host's own request is on it (70 R287, 93 U7); safe. -/
  | twoDrivers
  /-- Raised by a host look or a host read of `F` after `close` (42_host_session R207: the lawful host "reads no output"); safe. -/
  | lookAfterClose
  deriving DecidableEq, Repr

/-- `F[0..14] = 0x0000` (R50). -/
def Fields.zero : Fields := Fields.ofFn fun _ => 0x0000

/-- The RX unit after reset (R50); the buffer lists nothing, so its bytes are the free ones of draw 0. -/
def RxUnit.reset : RxUnit where
  cnt := 0
  buf := []
  bufDraw := 0
  f := Fields.zero
  chkValid := false
  present := false
  out := []
  log := []

/-- The TX unit after reset (R50). -/
def TxUnit.reset : TxUnit where
  busy := false
  sel := 0
  cnt := 0
  out := []
  log := []

/-- The host at the start: its session is in `Created` (R50, R201); the mode is log entry 5. -/
def HostAgent.reset : HostAgent where
  session := .created
  mode := .passive
  task := .idle
  returns := []
  seen := []

/-- The machine right after reset (R50). -/
def State.reset : State where
  rx := RxUnit.reset
  tx := TxUnit.reset
  host := HostAgent.reset
  inputs := []

end Sys2Proof.Machine
end

