-- ==== Sys2Proof/Machine/Ops.lean ====
section
/-! DEFINITION. The named operations over the buffer, the registers and the output events, among them raising an
exception (00_scope R11, R12; 60_exceptions R231). -/

namespace Sys2Proof.Machine

/-- Run `k` after an outcome that is a next state. -/
def andThen (o : Host.Outcome State Fault Refusal) (k : State → Host.Outcome State Fault Refusal) :
    Host.Outcome State Fault Refusal :=
  match o with
  | .next s => k s
  | .fault r => .fault r
  | .refused r => .refused r

/-! ### The frame buffer -/

/-- The canonical form of the buffer: offsets strictly rising and inside 0 to 31 (R35). An unlisted byte reads as a free
value, which no listed byte can be compared with (log entry 3). -/
abbrev Memory.wf (m : Memory) : Prop := m.Pairwise (fun c d => c.1 < d.1) ∧ ∀ c ∈ m, c.1 < Config.frameLen

/-- The byte listed at an offset, if any. -/
def memLookup (m : Memory) (a : Nat) : Option Byte :=
  match m with
  | [] => none
  | c :: m' => if c.1 = a then some c.2 else memLookup m' a

/-- Store a byte at an offset, keeping the canonical form. -/
def memInsert (m : Memory) (a : Nat) (b : Byte) : Memory :=
  match m with
  | [] => [(a, b)]
  | c :: m' =>
    if a < c.1 then (a, b) :: c :: m'
    else if c.1 = a then (a, b) :: m'
    else c :: memInsert m' a b

/-- `MemRead(a, 1) = rx_buf[a]` (R11); an offset nothing has written since the last Reset reads as the free byte of
`RXBUF_RESET` (R50). -/
def memRead1 (u : RxUnit) (a : BitVec 5) : Byte :=
  match memLookup u.buf a.toNat with
  | some b => b
  | none => Config.rxbufReset u.bufDraw a

/-- `MemWrite(a, 1, b)` (R11); no wider write exists. -/
def memWrite1 (a : BitVec 5) (b : Byte) (u : RxUnit) : RxUnit := { u with buf := memInsert u.buf a.toNat b }

/-! ### One unit of the state -/

/-- A change of the RX unit alone (R22). -/
def mapRx (g : RxUnit → RxUnit) (s : State) : State := { s with rx := g s.rx }

/-- A change of the TX unit alone (R22). -/
def mapTx (g : TxUnit → TxUnit) (s : State) : State := { s with tx := g s.tx }

/-- A change of the host alone (R34). -/
def mapHost (g : HostAgent → HostAgent) (s : State) : State := { s with host := g s.host }

/-! ### Output events -/

/-- `emit e` by the RX unit (R12): into the strobes of this edge and the history. -/
def emitRx (e : OutEvent) (u : RxUnit) : RxUnit := { u with out := u.out ++ [e], log := .out e :: u.log }

/-- `emit e` by the TX unit (R12). -/
def emitTx (e : OutEvent) (u : TxUnit) : TxUnit := { u with out := u.out ++ [e], log := .out e :: u.log }

/-- `raise E(info)` (R12, R231): the exception goes to the output list of the unit that raises it (R230), and nothing
else happens: no handler, no saved state, no mode change. -/
def raise (e : Exception) (s : State) : State :=
  match e with
  | .framingError got => mapRx (emitRx (.raised (.framingError got))) s
  | .transportReadError count => mapRx (emitRx (.raised (.transportReadError count))) s
  | .commandWriteError count => mapTx (emitTx (.raised (.commandWriteError count))) s

/-- The numeric code of a row of the table of exceptions (R230, D12). -/
def exceptionNumber (x : ExceptionName) : Nat :=
  match x with
  | .none => 0
  | .framingError => 1
  | .transportReadError => 2
  | .commandWriteError => 3
  | .sessionClosedError => 4
  | .transportOpenError => 5

/-- The row of a block exception (R230). -/
def exceptionName (e : Exception) : ExceptionName :=
  match e with
  | .framingError _ => .framingError
  | .transportReadError _ => .transportReadError
  | .commandWriteError _ => .commandWriteError

/-- The row of an error a caller can be given (R230). -/
def hostErrorName (e : HostError) : ExceptionName :=
  match e with
  | .block b => exceptionName b
  | .sessionClosedError => .sessionClosedError
  | .transportOpenError => .transportOpenError

/-- The row of a result: a success is row 0, "no exception" (R230). -/
def resultName (r : HostResult) : ExceptionName :=
  match r with
  | .done => .none
  | .reading _ _ => .none
  | .error e => hostErrorName e

/-- The row of the exception that a unit raised at an edge, from its output events: row 0 where it raised none (R230,
R233 (f)). -/
def raisedName (es : List OutEvent) : ExceptionName :=
  match es with
  | [] => .none
  | .raised e :: _ => exceptionName e
  | .txByte _ :: es' => raisedName es'
  | .cmdDone :: es' => raisedName es'
  | .frameDone :: es' => raisedName es'

/-- The numeric code of a block exception (R230). -/
def exceptionCode (e : Exception) : Nat := exceptionNumber (exceptionName e)

/-- The numeric code of an error a caller can be given (R230). -/
def hostErrorCode (e : HostError) : Nat := exceptionNumber (hostErrorName e)

/-- At a clock edge the strobes of the edge before go back to 0 (R43). -/
def clearStrobes (s : State) : State :=
  { s with rx := { s.rx with out := [] }, tx := { s.tx with out := [] } }

/-! ### Counters and registers -/

/-- `rx_cnt <- v` (R11). -/
def setRxCnt (v : BitVec 5) (u : RxUnit) : RxUnit := { u with cnt := v }

/-- `tx_cnt <- v` (R11). -/
def setTxCnt (v : BitVec 3) (u : TxUnit) : TxUnit := { u with cnt := v }

/-- The TX unit goes idle: `tx_busy <- 0`, `tx_cnt <- 0`, `tx_sel` kept (R136, R137). -/
def endCommand (u : TxUnit) : TxUnit := { u with busy := false, cnt := 0 }

/-- The writes of `CmdReq(sel)` (R135), with its mark in the history. -/
def startCommand (sel : BitVec 2) (u : TxUnit) : TxUnit :=
  { u with busy := true, sel := sel, cnt := 0, log := .cmdReq sel :: u.log }

/-- The seventeen writes of a reading, all together (R67, R165). -/
def loadReading (ws : Fields) (chk : Bool) (u : RxUnit) : RxUnit :=
  { u with f := ws, chkValid := chk, present := true }

/-! ### Reset -/

/-- `Reset` of the RX unit (R270): `RXBUF_RESET` is drawn afresh, no output event, the mark in the history. -/
def resetRx (u : RxUnit) : RxUnit :=
  { RxUnit.reset with bufDraw := u.bufDraw + 1, log := .reset :: u.log }

/-- `Reset` of the TX unit (R270). -/
def resetTx (u : TxUnit) : TxUnit := { TxUnit.reset with log := .reset :: u.log }

/-- What the host does at a reset: it starts a new session in `Created` (42_host_session R209; log entry 6). -/
def newSession (h : HostAgent) : HostAgent :=
  { h with session := HostAgent.reset.session, mode := HostAgent.reset.mode, task := HostAgent.reset.task }

end Sys2Proof.Machine
end

