-- ==== Sys2Proof/Machine/Operands.lean ====
section
/-! DEFINITION. The operand forms: constant offsets within the frame (41_frame_parser R169), the received frame of a
completion (R160, R161), and the byte the command encoder presents (40_command_encoder R136). -/

namespace Sys2Proof.Machine

/-- The effective address of field `k`: `2 + 2k` (R169). -/
def fieldOffset (k : Fin 15) : BitVec 5 := BitVec.ofNat 5 (Config.payloadOff + 2 * k.val)

/-- `MemRead(2 + 2k, 2)`, big-endian (R11, R169). -/
def memRead2 (u : RxUnit) (k : Fin 15) : Word := be16 (memRead1 u (fieldOffset k)) (memRead1 u (fieldOffset k + 1))

/-- The 32 bytes of the frame that byte `b` completes: `B[a] = rx_buf[a]` for a = 0..30, `B[31] = b` (R160). -/
def receivedFrame (b : Byte) (u : RxUnit) : Frame :=
  ((List.range 31).map fun a => memRead1 u (BitVec.ofNat 5 a)) ++ [b]

/-- The command byte at the encoder's position: `CmdByte(tx_sel, tx_cnt)` (R42, R136). -/
def currentCmdByte (u : TxUnit) : Byte := cmdByte u.sel u.cnt

end Sys2Proof.Machine
end

