-- ==== Sys2Proof/Machine/Flags.lean ====
section
/-! DEFINITION. The flag computations. `rd_chk_valid` is the only computed flag (41_frame_parser R164); there is no
carry, overflow, zero or sign flag (10_state R33). -/

namespace Sys2Proof.Machine

/-- `rd_chk_valid` of a frame with the fifteen words `ws`: the sum of bytes 0 to 29 equals the transmitted checksum
(R164). -/
def checksumFlag (ws : Fields) : Bool := sum16 (coveredBytes ws) == ws.checksum

end Sys2Proof.Machine
end

