-- ==== Sys2Proof/Machine/Command.lean ====
section
/-! DEFINITION. The meanings of the four commands (40_command_encoder R135, R140 to R143). Executing a command is its
`CmdReq`: the transfer in progress is state (`tx_busy`, `tx_sel`, `tx_cnt`), and the seven `TxAccept` events that emit
its bytes are the transport's, each a step of its own (Machine/Events.lean, log entry 1). -/

namespace Sys2Proof.Machine

/-- `CmdReq(sel)` (R135). While the encoder is busy it is no event and no error: the request waits and nothing changes
(10_state R45). -/
def requestCommand (sel : BitVec 2) (s : State) : Host.Outcome State Fault Refusal :=
  if s.tx.busy then .next s else .next (mapTx (startCommand sel) s)

/-- `SET_PASSIVE`: `CmdReq(0)` (R140). -/
def execSetPassive (s : State) : Host.Outcome State Fault Refusal := requestCommand 0 s

/-- `SET_ACTIVE`: `CmdReq(1)` (R141). -/
def execSetActive (s : State) : Host.Outcome State Fault Refusal := requestCommand 1 s

/-- `SLEEP`: `CmdReq(2)` (R142). -/
def execSleep (s : State) : Host.Outcome State Fault Refusal := requestCommand 2 s

/-- `WAKE`: `CmdReq(3)` (R143). -/
def execWake (s : State) : Host.Outcome State Fault Refusal := requestCommand 3 s

end Sys2Proof.Machine
end

