-- ==== Sys2Proof/Machine/Data.lean ====
section
/-! DEFINITION. The meaning of the data frame (41_frame_parser R161, R164, R165). -/

namespace Sys2Proof.Machine

/-- `DATA`: the fifteen words go to `F[0..14]`, the checksum comparison to `rd_chk_valid`, `rd_present` is set, and
`FrameDone` is emitted; a wrong checksum changes nothing but the flag (R164, R165). -/
def execData (ws : Fields) (s : State) : Host.Outcome State Fault Refusal :=
  .next (mapRx (fun u => emitRx .frameDone (loadReading ws (checksumFlag ws) u)) s)

end Sys2Proof.Machine
end

