-- ==== Sys2Proof/Machine/Dispatch.lean ====
section
/-! DEFINITION. One arm per instruction of spec/opcode_table.json. -/

namespace Sys2Proof.Machine

def exec (i : Instr) (s : State) : Host.Outcome State Fault Refusal :=
  match i with
  | .setPassive => Sys2Proof.Machine.execSetPassive s
  | .setActive => Sys2Proof.Machine.execSetActive s
  | .sleep => Sys2Proof.Machine.execSleep s
  | .wake => Sys2Proof.Machine.execWake s
  | .data ws => Sys2Proof.Machine.execData ws s

end Sys2Proof.Machine
end

