-- ==== Sys2Proof/Machine/Events.lean ====
section
/-! DEFINITION. The input events of the block and what each does (00_scope R12): `RxByte` with frame completion,
`RxAbort`, `CmdReq`, `TxAccept`, `TxAbort`, `Reset`. -/

namespace Sys2Proof.Machine

/-- The input events (R12). -/
inductive InEvent where
  | reset
  | rxByte (b : Byte)
  | rxAbort
  | cmdReq (sel : BitVec 2)
  | txAccept
  | txAbort
  deriving DecidableEq, Repr

/-- `FrameComplete(B)` (R161): the start check decides (R162, R166); `DATA` is executed, or the frame is discarded with
`FramingError(got = {B[0], B[1]})` (R163). -/
def frameComplete (bs : Frame) (s : State) : Host.Outcome State Fault Refusal :=
  match decode .sensorToHost bs with
  | .ok i _ => exec i s
  | .rejected _ => .next (raise (.framingError (wordAt bs 0)) s)

/-- `RxByte(b)` (R160): store at `rx_buf[rx_cnt]` and advance; the byte at offset 31 completes the frame. -/
def rxByte (b : Byte) (s : State) : Host.Outcome State Fault Refusal :=
  if s.rx.cnt = 31 then
    frameComplete (receivedFrame b s.rx) (mapRx (fun u => setRxCnt 0 (memWrite1 u.cnt b u)) s)
  else .next (mapRx (fun u => setRxCnt (u.cnt + 1) (memWrite1 u.cnt b u)) s)

/-- `RxAbort` (R167): always possible, also at `rx_cnt = 0` (10_state R47). -/
def rxAbort (s : State) : State := mapRx (setRxCnt 0) (raise (.transportReadError s.rx.cnt) s)

/-- `TxAccept` (R136); it cannot happen while the encoder is idle (10_state R44). -/
def txAccept (s : State) : State :=
  if s.tx.busy then
    if s.tx.cnt = 6 then
      mapTx (fun u => emitTx .cmdDone (endCommand (emitTx (.txByte (currentCmdByte u)) u))) s
    else mapTx (fun u => setTxCnt (u.cnt + 1) (emitTx (.txByte (currentCmdByte u)) u)) s
  else s

/-- `TxAbort` (R137); ignored while the encoder is idle (10_state R47). -/
def txAbort (s : State) : State :=
  if s.tx.busy then mapTx endCommand (raise (.commandWriteError s.tx.cnt) s) else s

/-- `Reset` (R270); the host starts a new session (42_host_session R209). No output event; the stimuli still to come are
the outside's and stay. -/
def resetEvent (s : State) : State := mapRx resetRx (mapTx resetTx (mapHost newSession s))

/-- What an input event does (R12). `CmdReq(sel)` executes the command that `sel` names (30_encoding R101). -/
def handle (e : InEvent) (s : State) : Host.Outcome State Fault Refusal :=
  match e with
  | .reset => .next (resetEvent s)
  | .rxByte b => rxByte b s
  | .rxAbort => .next (rxAbort s)
  | .cmdReq sel => exec (decodeSelect sel) s
  | .txAccept => .next (txAccept s)
  | .txAbort => .next (txAbort s)

/-- At most one event of a unit at an edge (R44). -/
def handleOpt (e : Option InEvent) (s : State) : Host.Outcome State Fault Refusal :=
  match e with
  | some e => handle e s
  | none => .next s

end Sys2Proof.Machine
end

