-- ==== Sys2Proof/Machine/Outputs.lean ====
section
/-! DEFINITION. The output ports as functions of the state (10_state R42, R43). A value output that goes with a strobe
has a value only while its strobe is 1 (log entry 11). -/

namespace Sys2Proof.Machine

/-- The output ports (R42). -/
structure OutPorts where
  cmdReady : Bool
  txValid : Bool
  txData : Byte
  cmdDone : Bool
  /-- `err_cmd_write` with `err_cmd_count`. -/
  errCmdWrite : Option (BitVec 3)
  rdValid : Bool
  /-- `rd_field[0..14]`. -/
  rdField : Fields
  rdChkValid : Bool
  rdPresent : Bool
  /-- `err_framing` with `err_start`. -/
  errFraming : Option Word
  /-- `err_rx_transport` with `err_rx_count`. -/
  errRxTransport : Option (BitVec 5)
  deriving DecidableEq, Repr

/-- The count of a `CommandWriteError` among the events of the last edge. -/
def commandErrorOf (es : List OutEvent) : Option (BitVec 3) :=
  match es with
  | [] => none
  | .raised (.commandWriteError count) :: _ => some count
  | _ :: es' => commandErrorOf es'

/-- The start bytes of a `FramingError` among the events of the last edge. -/
def framingErrorOf (es : List OutEvent) : Option Word :=
  match es with
  | [] => none
  | .raised (.framingError got) :: _ => some got
  | _ :: es' => framingErrorOf es'

/-- The count of a `TransportReadError` among the events of the last edge. -/
def readErrorOf (es : List OutEvent) : Option (BitVec 5) :=
  match es with
  | [] => none
  | .raised (.transportReadError count) :: _ => some count
  | _ :: es' => readErrorOf es'

/-- The output ports in a state (R42): levels follow their state elements, strobes show the last edge (R43). -/
def outPorts (s : State) : OutPorts where
  cmdReady := !s.tx.busy
  txValid := s.tx.busy
  txData := if s.tx.busy then currentCmdByte s.tx else 0x00
  cmdDone := s.tx.out.contains .cmdDone
  errCmdWrite := commandErrorOf s.tx.out
  rdValid := s.rx.out.contains .frameDone
  rdField := s.rx.f
  rdChkValid := s.rx.chkValid
  rdPresent := s.rx.present
  errFraming := framingErrorOf s.rx.out
  errRxTransport := readErrorOf s.rx.out

end Sys2Proof.Machine
end

