-- ==== Sys2Proof/Machine/Session.lean ====
section
/-! DEFINITION. The host agent: the session state machine and the expansion of the five pseudo-instructions
(42_host_session R201 to R209). Between edges the host makes a call or looks at a level output; at an edge it drives the
command port with the request it holds, and after the edge it acts on the strobes. -/

namespace Sys2Proof.Machine

/-- The select code of a mode: `Passive = 0`, `Active = 1` (30_encoding R101, R203). -/
def modeSelect (m : Mode) : BitVec 2 :=
  match m with
  | .passive => 0
  | .active => 1

/-- The select code of a command the host sends (R203, R205, R206). -/
def useSelect (m : Mode) (use : CommandUse) : BitVec 2 :=
  match use with
  | .initMode => modeSelect m
  | .initWake => 3
  | .sleep => 2
  | .wake => 3

/-- The pseudo-instruction a command belongs to. -/
def useCall (m : Mode) (use : CommandUse) : HostCall :=
  match use with
  | .initMode => .initializeSession m
  | .initWake => .initializeSession m
  | .sleep => .sleep
  | .wake => .wake

/-- The request the host holds on the command port, until it is accepted (10_state R45, R209). -/
def hostRequest (h : HostAgent) : Option (BitVec 2) :=
  match h.task with
  | .command use .requesting => some (useSelect h.mode use)
  | .command _ .awaiting => none
  | .reading => none
  | .idle => none

/-- A pseudo-instruction returns a result to its caller and is over (R202). -/
def returnResult (c : HostCall) (r : HostResult) (h : HostAgent) : HostAgent :=
  { h with task := .idle, returns := ⟨c, r⟩ :: h.returns }

/-- `session_state <- x`. -/
def setSession (x : Session) (h : HostAgent) : HostAgent := { h with session := x }

/-- The host goes on with a task. -/
def setTask (t : HostTask) (h : HostAgent) : HostAgent := { h with task := t }

/-- `initialize(m)` begins: `mode <- m`, then the mode command (R203). -/
def beginInitialize (m : Mode) (h : HostAgent) : HostAgent :=
  { h with mode := m, task := .command .initMode .requesting }

/-- A pseudo-instruction is invoked: the table of R201. In `Closed` every one returns `SessionClosedError` without a
block event (R208); the entries marked "no move" are refused (R243). -/
def hostCall (c : HostCall) (s : State) : Host.Outcome State Fault Refusal :=
  match s.host.session with
  | .closed => .next (mapHost (returnResult c (.error .sessionClosedError)) s)
  | .created =>
    if s.host.task ≠ .idle then .refused .callInProgress
    else match c with
      | .initializeSession m => .next (mapHost (beginInitialize m) s)
      | .read => .refused (.noMove c .created)
      | .sleep => .refused (.noMove c .created)
      | .wake => .refused (.noMove c .created)
      | .close => .next (mapHost (fun h => returnResult c .done (setSession .closed h)) s)
  | .ready =>
    if s.host.task ≠ .idle then .refused .callInProgress
    else match c with
      | .initializeSession _ => .refused (.noMove c .ready)
      | .read => .next (mapHost (setTask .reading) s)
      | .sleep => .next (mapHost (setTask (.command .sleep .requesting)) s)
      | .wake => .next (mapHost (setTask (.command .wake .requesting)) s)
      | .close => .next (mapHost (fun h => returnResult c .done (setSession .closed h)) s)
  | .sleeping =>
    if s.host.task ≠ .idle then .refused .callInProgress
    else match c with
      | .initializeSession _ => .refused (.noMove c .sleeping)
      | .read => .refused (.noMove c .sleeping)
      | .sleep => .refused (.noMove c .sleeping)
      | .wake => .next (mapHost (setTask (.command .wake .requesting)) s)
      | .close => .next (mapHost (fun h => returnResult c .done (setSession .closed h)) s)

/-- What the host sees at a level output; at `rd_field[k]` before the first reading it gets no value (10_state R27, R209;
log entry 16). -/
def lookAt (l : Look) (s : State) : Seen :=
  match l with
  | .field k => if (outPorts s).rdPresent then .field k ((outPorts s).rdField.get k) else .noReading k
  | .chkValid => .chkValid (outPorts s).rdChkValid
  | .present => .present (outPorts s).rdPresent

/-- The host notes what it saw. -/
def recordSeen (x : Seen) (h : HostAgent) : HostAgent := { h with seen := x :: h.seen }

/-- The host looks at a level output (R68, R209). It may look at any time (R209, 70 R288) until it has
closed the session, after which it reads no output (R207). -/
def hostLook (l : Look) (s : State) : Host.Outcome State Fault Refusal :=
  if s.host.session = .closed then .refused .lookAfterClose
  else .next (mapHost (recordSeen (lookAt l s)) s)

/-- What a host read of `F` gives: the host's own copy of the reading with its flag (R209, 70 R283); while `rd_present = 0`
the read is refused and gives no value (60_exceptions R243; 10_state R27, 93 U14; log entry 16). -/
def readOfF (s : State) : Seen :=
  if (outPorts s).rdPresent then .copied (outPorts s).rdField (outPorts s).rdChkValid else .readRefused

/-- The host reads `F`. It may in any cycle (70 R288) until it has closed the session, after which it reads no output (R207). -/
def hostReadF (s : State) : Host.Outcome State Fault Refusal :=
  if s.host.session = .closed then .refused .lookAfterClose
  else .next (mapHost (recordSeen (readOfF s)) s)

/-- The command the host was sending is done (R203, R205, R206). -/
def commandDone (use : CommandUse) (h : HostAgent) : HostAgent :=
  match use with
  | .initMode => setTask (.command .initWake .requesting) h
  | .initWake => returnResult (useCall h.mode use) .done (setSession .ready h)
  | .sleep => returnResult (useCall h.mode use) .done (setSession .sleeping h)
  | .wake => returnResult (useCall h.mode use) .done (setSession .ready h)

/-- The command the host was sending failed: its pseudo-instruction returns the error and the session state stays
(R203, R205, R206). -/
def commandFailed (use : CommandUse) (count : BitVec 3) (h : HostAgent) : HostAgent :=
  returnResult (useCall h.mode use) (.error (.block (.commandWriteError count))) h

/-- What `read` returns for the frame outcome at the outputs, if there is one (R204). -/
def readOutcome (o : OutPorts) : Option HostResult :=
  if o.rdValid then some (.reading o.rdField o.rdChkValid)
  else match o.errFraming with
    | some got => some (.error (.block (.framingError got)))
    | none =>
      match o.errRxTransport with
      | some count => some (.error (.block (.transportReadError count)))
      | none => none

/-- The host acts on the strobes of an edge (R203 to R206): a request it held at an edge at which the encoder was idle
has been accepted (10_state R45); a command it awaits is done or has failed; a frame outcome ends its `read`. -/
def hostObserve (wasBusy : Bool) (o : OutPorts) (h : HostAgent) : HostAgent :=
  match h.task with
  | .idle => h
  | .reading =>
    match readOutcome o with
    | some r => returnResult .read r h
    | none => h
  | .command use .requesting => if wasBusy then h else setTask (.command use .awaiting) h
  | .command use .awaiting =>
    if o.cmdDone then commandDone use h
    else match o.errCmdWrite with
      | some count => commandFailed use count h
      | none => h

end Sys2Proof.Machine
end

