-- ==== Sys2Proof/Machine/Edge.lean ====
section
/-! DEFINITION. One clock edge: from the port values to the events of both units (10_state R44), and the stimuli a step
can be given. Placing an instruction so that the next step runs it stands here too. -/

namespace Sys2Proof.Machine

/-- The RX event of an edge (R44): `rx_abort` beats `rx_valid`. -/
def rxEventOf (p : Ports) : Option InEvent :=
  if p.rxAbort then some .rxAbort else if p.rxValid then some (.rxByte p.rxData) else none

/-- The TX event of an edge, given `tx_busy` before it (R44): while busy `tx_abort` beats `tx_ready`; while idle only a
command request counts (R45, R47). -/
def txEventOf (p : Ports) (busy : Bool) : Option InEvent :=
  if busy then
    if p.txAbort then some .txAbort else if p.txReady then some .txAccept else none
  else if p.cmdValid then some (.cmdReq p.cmdSel)
  else none

/-- The port values as the block sees them: the host drives the command port while it holds a request (R209). -/
def drivenPorts (p : Ports) (h : HostAgent) : Ports :=
  match hostRequest h with
  | some sel => { p with cmdValid := true, cmdSel := sel }
  | none => p

/-- Two drivers of the command port at one edge, which the spec leaves outside (70 R287, 93 U7; log entry 8). -/
def portConflict (p : Ports) (h : HostAgent) : Bool := p.cmdValid && (hostRequest h).isSome

/-- After the events of an edge the host acts on the outputs they left. -/
def finishEdge (wasBusy : Bool) (s : State) : Host.Outcome State Fault Refusal :=
  .next (mapHost (hostObserve wasBusy (outPorts s)) s)

/-- The events of both units at an edge without reset (R44); they touch disjoint state, so their order does not matter. -/
def edgeEvents (p : Ports) (s : State) : Host.Outcome State Fault Refusal :=
  andThen (handleOpt (rxEventOf p) (clearStrobes s)) fun s1 => handleOpt (txEventOf p s.tx.busy) s1

/-- A rising edge of `clk` with the sampled port values (R44). -/
def clockEdge (p : Ports) (s : State) : Host.Outcome State Fault Refusal :=
  if p.rst then handle .reset s
  else if portConflict p s.host then .refused .twoDrivers
  else andThen (edgeEvents (drivenPorts p s.host) s) (finishEdge s.tx.busy)

/-- What a stimulus does. -/
def perform (x : Stimulus) (s : State) : Host.Outcome State Fault Refusal :=
  match x with
  | .edge p => clockEdge p s
  | .call c => hostCall c s
  | .look l => hostLook l s
  | .readF => hostReadF s

/-- The next stimulus: the head of the list; after its end the outside presents nothing (log entry 2). -/
def nextStimulus (s : State) : Stimulus :=
  match s.inputs with
  | [] => .edge Ports.quiet
  | x :: _ => x

/-- The state with the next stimulus taken off the list. -/
def takeStimulus (s : State) : State := { s with inputs := s.inputs.tail }

/-- The buffer that lists the given bytes from offset `a` up. -/
def listedFrom (a : Nat) (bs : List Byte) : Memory :=
  match bs with
  | [] => []
  | b :: bs' => (a, b) :: listedFrom (a + 1) bs'

/-- Place a command so that the next step runs it (log entry 12): the encoder and the host are idle and the next edge
requests the command's select code. -/
def placeCommand (sel : BitVec 2) (s : State) : State :=
  { s with
    tx := endCommand s.tx
    host := setTask .idle s.host
    inputs := .edge { Ports.quiet with cmdValid := true, cmdSel := sel } :: s.inputs }

/-- Place a 32-byte frame so that the next step completes it (log entry 12): its first 31 bytes stand in the buffer, the
host is idle, and the next edge presents the last byte. -/
def placeFrame (bs : Frame) (s : State) : State :=
  { s with
    rx := { s.rx with cnt := 31, buf := listedFrom 0 (bs.take 31) }
    host := setTask .idle s.host
    inputs := .edge { Ports.quiet with rxValid := true, rxData := bs.getD 31 0 } :: s.inputs }

/-- Place the frame of a bit pattern of the opcode table; outbound patterns that no select code produces (R106) cannot be
placed and change nothing. -/
def placePattern (s : State) (nbits w : Nat) : State :=
  match patternDirection nbits with
  | none => s
  | some .sensorToHost => placeFrame (patternBytes nbits w) s
  | some .hostToSensor =>
    match decode .hostToSensor (patternBytes nbits w) with
    | .rejected _ => s
    | .ok i _ =>
      match selectOf i with
      | some sel => placeCommand sel s
      | none => s

end Sys2Proof.Machine
end

