-- ==== Sys2Proof/Machine/Step.lean ====
section
/-! DEFINITION. One step of the machine: the next stimulus happens. -/

namespace Sys2Proof.Machine

/-- One step (00_scope R12, 10_state R44). -/
def step (s : State) : Host.Outcome State Fault Refusal := perform (nextStimulus s) (takeStimulus s)

/-- The state in which the next step runs the instruction of a pattern of the opcode table (log entry 12). -/
def State.withFetchWord (s : State) (nbits w : Nat) : State := placePattern s nbits w

end Sys2Proof.Machine
end

