-- ==== Sys2Proof/Safety.lean ====
section
/-! DEFINITION. What counts as a good state of the machine, and the terms the statements use: the shape of a unit's
history, the invariants of 40_command_encoder R138, 41_frame_parser R171 and 42_host_session R201, the stimuli that feed
bytes and acceptances, and the relation "equal but for what the buffer holds beyond the received bytes" (10_state R25). -/

namespace Sys2Proof.Machine

/-! ### The TX history -/

/-- What a TX history says of the wire: out of order, between commands, or `n` bytes into the command `sel`. -/
inductive TxPhase where
  | broken
  | idle
  | sending (sel : BitVec 2) (n : Nat)
  deriving DecidableEq, Repr

/-- One entry of a TX history after the entries before it (R138 (c), (d), (e)): byte `n` of a command is
`CmdByte(sel, n)`, `CmdDone` comes after exactly seven, a `CommandWriteError` records how many there were, and no request
comes inside a command. -/
def txPhaseNext (ph : TxPhase) (r : Record) : TxPhase :=
  match ph, r with
  | .broken, _ => .broken
  | .idle, .cmdReq sel => .sending sel 0
  | .idle, .reset => .idle
  | .idle, .out _ => .broken
  | .sending _ _, .reset => .idle
  | .sending _ _, .cmdReq _ => .broken
  | .sending sel n, .out e =>
    match e with
    | .txByte b => if n < 7 ∧ b = cmdByte sel (BitVec.ofNat 3 n) then .sending sel (n + 1) else .broken
    | .cmdDone => if n = 7 then .idle else .broken
    | .raised (.commandWriteError count) => if n < 7 ∧ count.toNat = n then .idle else .broken
    | .raised (.framingError _) => .broken
    | .raised (.transportReadError _) => .broken
    | .frameDone => .broken

/-- The phase a whole TX history, newest first, ends in. -/
def txPhase (log : List Record) : TxPhase :=
  match log with
  | [] => .idle
  | r :: older => txPhaseNext (txPhase older) r

/-- The invariants of the TX unit (R138): idle means position 0, the position is never 7, and the history is a sequence of
whole, cut-short or reset commands whose bytes never interleave. -/
abbrev TxInv (u : TxUnit) : Prop :=
  (u.busy = false → u.cnt = 0) ∧ u.cnt ≠ 7 ∧ txPhase u.log = (if u.busy then .sending u.sel u.cnt.toNat else .idle)

/-! ### The RX history -/

/-- The entries of a history, newest first, that came after the last Reset. -/
def sinceReset (log : List Record) : List Record :=
  match log with
  | [] => []
  | .reset :: _ => []
  | .out e :: older => .out e :: sinceReset older
  | .cmdReq sel :: older => .cmdReq sel :: sinceReset older

/-- The invariants of the RX unit: the buffer is in canonical form and holds every byte of the frame received so far
(10_state R25); without a reading the registers are as reset leaves them (R27, R50); the flag is the checksum comparison
of the words it stands beside (R171 (d)); there is a reading exactly if a `FrameDone` came since the last Reset
(R171 (c)). -/
abbrev RxInv (u : RxUnit) : Prop :=
  Memory.wf u.buf
    ∧ (∀ a : BitVec 5, a < u.cnt → (memLookup u.buf a.toNat).isSome = true)
    ∧ (u.present = false → u.f = Fields.zero ∧ u.chkValid = false)
    ∧ (u.present = true → u.chkValid = checksumFlag u.f)
    ∧ (u.present = true ↔ Record.out .frameDone ∈ sinceReset u.log)

/-! ### The host -/

/-- The session states in which a task can be in progress (R201). -/
def taskAllowed (t : HostTask) (x : Session) : Bool :=
  match t with
  | .idle => true
  | .reading => x == .ready
  | .command .initMode _ => x == .created
  | .command .initWake _ => x == .created
  | .command .sleep _ => x == .ready
  | .command .wake _ => x == .ready || x == .sleeping

/-- The command whose outcome the host awaits. -/
def awaitedSelect (h : HostAgent) : Option (BitVec 2) :=
  match h.task with
  | .command use .awaiting => some (useSelect h.mode use)
  | .command _ .requesting => none
  | .reading => none
  | .idle => none

/-- The invariants of host and encoder together: a pseudo-instruction is in progress only where the session allows it, and
while the host awaits a command the encoder is sending that command (R201, R209). -/
abbrev HostInv (s : State) : Prop :=
  taskAllowed s.host.task s.host.session = true
    ∧ ∀ sel, awaitedSelect s.host = some sel → s.tx.busy = true ∧ s.tx.sel = sel

/-! ### Feeding the machine -/

/-- An edge that presents one received byte. -/
def byteEdge (b : Byte) : Stimulus := .edge { Ports.quiet with rxValid := true, rxData := b }

/-- An edge at which the transport accepts a command byte. -/
def acceptEdge : Stimulus := .edge { Ports.quiet with txReady := true }

/-- An edge at which the transport reports a write failure. -/
def abortEdge : Stimulus := .edge { Ports.quiet with txAbort := true }

/-- An edge at which nothing is presented. -/
def quietEdge : Stimulus := .edge Ports.quiet

/-- The state with other stimuli to come. -/
def withInputs (xs : List Stimulus) (s : State) : State := { s with inputs := xs }

/-- `n` acceptances in a row (`accept <n>` of 30_encoding R108). -/
def acceptMany (n : Nat) (s : State) : State :=
  match n with
  | 0 => s
  | n + 1 => acceptMany n (txAccept s)

/-- `k` steps, as long as each answers a next state. -/
def runSteps (k : Nat) (s : State) : Host.Outcome State Fault Refusal :=
  match k with
  | 0 => .next s
  | k + 1 => andThen (step s) (runSteps k)

/-- The length of a direction's frames (30_encoding R90). -/
def frameLength (dir : Direction) : Nat :=
  match dir with
  | .hostToSensor => Config.cmdLen
  | .sensorToHost => Config.frameLen

/-- The one output event of 32 received bytes (R161, R166). -/
def frameOutcome (bs : Frame) : OutEvent :=
  if Frame.startOk bs then .frameDone else .raised (.framingError (wordAt bs 0))

/-- The host calls the table of 42_host_session R201 allows in a session state other than `Closed`. -/
def lawfulCall (c : HostCall) (x : Session) : Bool :=
  match c with
  | .initializeSession _ => x == .created
  | .read => x == .ready
  | .sleep => x == .ready
  | .wake => x == .ready || x == .sleeping
  | .close => x == .created || x == .ready || x == .sleeping

/-- The history entries of the first bytes of a command, newest first, on top of its request. -/
def sentRecords (bs : Frame) (sel : BitVec 2) (log : List Record) : List Record :=
  (bs.map fun b => Record.out (.txByte b)).reverse ++ .cmdReq sel :: log

/-- The instruction `i` requests the command `sel`, and its seven acceptances emit exactly `bs`, one byte each, and then
`CmdDone`; a `TxAbort` after `n` of them emits exactly the first `n` bytes and raises `CommandWriteError(n)` (R135 to
R143). Nothing outside the TX unit changes. -/
def EmitsFrame (i : Instr) (sel : BitVec 2) (bs : Frame) (s : State) : Prop :=
  ∃ t, exec i s = .next t
    ∧ t = { s with tx := { s.tx with busy := true, sel := sel, cnt := 0, log := .cmdReq sel :: s.tx.log } }
    ∧ acceptMany 7 t = { s with tx :=
        { busy := false, sel := sel, cnt := 0
          out := s.tx.out ++ (bs.map OutEvent.txByte) ++ [.cmdDone]
          log := .out .cmdDone :: sentRecords bs sel s.tx.log } }
    ∧ ∀ n : Nat, n < 7 →
        (acceptMany n t).tx.busy = true
          ∧ txAbort (acceptMany n t) = { s with tx :=
              { busy := false, sel := sel, cnt := 0
                out := s.tx.out ++ ((bs.take n).map OutEvent.txByte)
                  ++ [.raised (.commandWriteError (BitVec.ofNat 3 n))]
                log := .out (.raised (.commandWriteError (BitVec.ofNat 3 n)))
                  :: sentRecords (bs.take n) sel s.tx.log } }

/-- The stimuli of one command the host sends, all seven bytes accepted. -/
def commandStimuli : List Stimulus := quietEdge :: List.replicate 7 acceptEdge

/-- The stimuli of one command the host sends, with a write failure after `n` accepted bytes. -/
def failedCommandStimuli (n : Nat) : List Stimulus := quietEdge :: List.replicate n acceptEdge ++ [abortEdge]

/-- The TX unit after a whole command, its strobes showing the last byte and `CmdDone`. -/
def commandSent (sel : BitVec 2) (u : TxUnit) : TxUnit where
  busy := false
  sel := sel
  cnt := 0
  out := [.txByte (cmdByte sel 6), .cmdDone]
  log := .out .cmdDone :: sentRecords (commandFrame sel) sel u.log

/-- The TX unit after a command cut short by a write failure after `n` bytes. -/
def commandCut (sel : BitVec 2) (n : Nat) (u : TxUnit) : TxUnit where
  busy := false
  sel := sel
  cnt := 0
  out := [.raised (.commandWriteError (BitVec.ofNat 3 n))]
  log := .out (.raised (.commandWriteError (BitVec.ofNat 3 n))) :: sentRecords ((commandFrame sel).take n) sel u.log

/-- The state after steps that end with the given TX unit and host and receive nothing. -/
def afterCommand (u : TxUnit) (h : HostAgent) (rest : List Stimulus) (s : State) : State where
  rx := { s.rx with out := [] }
  tx := u
  host := h
  inputs := rest

/-! ### The buffer beyond the received bytes -/

/-- Two states that differ at most in what the frame buffer holds at offsets the frame in progress has not reached, and in
the draw of `RXBUF_RESET` (10_state R25). -/
abbrev SameButBuffer (s s' : State) : Prop :=
  s' = { s with rx := { s.rx with buf := s'.rx.buf, bufDraw := s'.rx.bufDraw } }
    ∧ ∀ a : BitVec 5, a < s.rx.cnt → memRead1 s.rx a = memRead1 s'.rx a

/-- Two outcomes of the same kind whose next states are the same but for the buffer. -/
def SameOutcome (o o' : Host.Outcome State Fault Refusal) : Prop :=
  match o, o' with
  | .next s, .next s' => SameButBuffer s s'
  | .refused r, .refused r' => r = r'
  | .fault _, _ => False
  | .next _, .refused _ => False
  | .next _, .fault _ => False
  | .refused _, .next _ => False
  | .refused _, .fault _ => False

/-- The events of the RX unit (10_state R22). -/
def isRxEvent (e : InEvent) : Bool :=
  match e with
  | .rxByte _ => true
  | .rxAbort => true
  | .reset => false
  | .cmdReq _ => false
  | .txAccept => false
  | .txAbort => false

/-- The events of the TX unit (10_state R22). -/
def isTxEvent (e : InEvent) : Bool :=
  match e with
  | .cmdReq _ => true
  | .txAccept => true
  | .txAbort => true
  | .reset => false
  | .rxByte _ => false
  | .rxAbort => false

/-- How many exceptions are among the output events of a unit at an edge. -/
def raisedCount (es : List OutEvent) : Nat :=
  match es with
  | [] => 0
  | .raised _ :: es' => raisedCount es' + 1
  | .txByte _ :: es' => raisedCount es'
  | .cmdDone :: es' => raisedCount es'
  | .frameDone :: es' => raisedCount es'

/-- Whether the next stimulus is an edge with `rst = 1`. -/
def nextIsReset (s : State) : Bool :=
  match nextStimulus s with
  | .edge p => p.rst
  | .call _ => false
  | .look _ => false
  | .readF => false

end Sys2Proof.Machine
end

