-- ==== Sys2Proof/Certificates/Slice0/Obligations.lean ====
section
/-! DEFINITION. The statements for the provers, each formalising numbered rules of spec/. -/

open Sys2Proof Sys2Proof.Machine

/-! ### Encodings -/

/-- Decoding the encoding of any instruction gives it back, with every operand word at every value and whatever bytes
follow (30_encoding R92, R100, R103; 40_command_encoder R131). -/
def Obligations.DecodeEncodeRoundTrip : Prop :=
  ∀ (i : Instr) (rest : List Byte), decode i.direction (encode i ++ rest) = .ok i rest

/-- Whatever the decoder reads as an instruction is that instruction's encoding: no word has two meanings (R103). -/
def Obligations.DecodedBytesAreTheEncoding : Prop :=
  ∀ (dir : Direction) (bs rest : List Byte) (i : Instr),
    decode dir bs = .ok i rest → i.direction = dir ∧ bs = encode i ++ rest

/-- Among byte sequences of a format's length the decoder accepts exactly the frames of the field tables R91 and R92; in
particular no checksum decides about a data frame (R103, R105). -/
def Obligations.DecoderAcceptsExactlyTheFrames : Prop :=
  ∀ (dir : Direction) (bs : List Byte), bs.length = frameLength dir →
    ((∃ i, decode dir bs = .ok i []) ↔ Frame.wellFormed dir bs = true)

/-- The five patterns of the opcode table, written out (R100; the data frame is the source's scenario frame, R172). -/
def Obligations.TablePatternsDecode : Prop :=
  decodeTableWord 56 0x424DE100000170 = some .setPassive
    ∧ decodeTableWord 56 0x424DE100010171 = some .setActive
    ∧ decodeTableWord 56 0x424DE400000173 = some .sleep
    ∧ decodeTableWord 56 0x424DE400010174 = some .wake
    ∧ decodeTableWord 256 0x424D001C0005000A000F0005000A000F000100020003000400050006000000C6
      = some (.data ⟨28, 5, 10, 15, 5, 10, 15, 1, 2, 3, 4, 5, 6, 0, 0xC6⟩)

/-- The four command checksums (R132). -/
def Obligations.CommandChecksums : Prop :=
  chk5 0 = 0x0170 ∧ chk5 1 = 0x0171 ∧ chk5 2 = 0x0173 ∧ chk5 3 = 0x0174 ∧ ∀ sel, cmdByte sel 5 = 0x01

/-- The 16-bit sums never wrap: of 30 bytes the sum is at most 7650, of 5 bytes at most 1275, and both are the plain sums
(R134, R168). -/
def Obligations.ChecksumSumsNeverWrap : Prop :=
  ∀ bs : List Byte,
    (bs.length ≤ 257 → (sum16 bs).toNat = Frame.byteSum bs)
      ∧ (bs.length = 30 → (sum16 bs).toNat ≤ 7650)
      ∧ (bs.length = 5 → (sum16 bs).toNat ≤ 1275)

/-! ### The commands -/

/-- SET_PASSIVE, SET_ACTIVE, SLEEP and WAKE with the encoder idle: the writes of `CmdReq(sel)` and nothing else, no output
event, and the outputs then offer byte 0 (R135, R42). That executing
a command is its request alone, the acceptances being steps of their own, is log entry 1; the mark in the model's own
history (log entry 7) is left open. -/
def Obligations.CommandRequestStarts : Prop :=
  ∀ (i : Instr) (sel : BitVec 2) (s : State), selectOf i = some sel → s.tx.busy = false →
    ∃ t, exec i s = .next t
      ∧ t = { s with tx := { s.tx with busy := true, sel := sel, cnt := 0, log := t.tx.log } }
      ∧ (outPorts t).txValid = true ∧ (outPorts t).txData = 0x42 ∧ (outPorts t).cmdReady = false

/-- The event `CmdReq(sel)` with the encoder idle: its three writes and nothing else, no output event, and from the next
cycle `tx_valid = 1` with byte 0 on `tx_data` (R135). -/
def Obligations.CmdReqStartsEncoder : Prop :=
  ∀ (sel : BitVec 2) (s : State), s.tx.busy = false →
    ∃ t, handle (.cmdReq sel) s = .next t
      ∧ t = { s with tx := { s.tx with busy := true, sel := sel, cnt := 0, log := t.tx.log } }
      ∧ (outPorts t).txValid = true ∧ (outPorts t).txData = cmdByte sel 0 ∧ cmdByte sel 0 = 0x42

/-- A command requested while the encoder is busy waits: nothing changes and nothing is reported (10_state R45,
60_exceptions R236 (c)). -/
def Obligations.CommandWaitsWhileBusy : Prop :=
  ∀ (i : Instr) (sel : BitVec 2) (s : State), selectOf i = some sel → s.tx.busy = true → exec i s = .next s

/-- SET_PASSIVE: its seven bytes and `CmdDone`, or a prefix and `CommandWriteError` (R140); the request is the execution, each
acceptance an event of its own (log entry 1), and the history's marks are the model's (log entry 7). -/
def Obligations.SetPassiveEmitsItsFrame : Prop :=
  ∀ s : State, s.tx.busy = false → EmitsFrame .setPassive 0 [0x42, 0x4D, 0xE1, 0x00, 0x00, 0x01, 0x70] s

/-- SET_ACTIVE: its seven bytes and `CmdDone`, or a prefix and `CommandWriteError` (R141); the request is the execution, each
acceptance an event of its own (log entry 1), and the history's marks are the model's (log entry 7). -/
def Obligations.SetActiveEmitsItsFrame : Prop :=
  ∀ s : State, s.tx.busy = false → EmitsFrame .setActive 1 [0x42, 0x4D, 0xE1, 0x00, 0x01, 0x01, 0x71] s

/-- SLEEP: its seven bytes and `CmdDone`, or a prefix and `CommandWriteError` (R142); the request is the execution, each
acceptance an event of its own (log entry 1), and the history's marks are the model's (log entry 7). -/
def Obligations.SleepEmitsItsFrame : Prop :=
  ∀ s : State, s.tx.busy = false → EmitsFrame .sleep 2 [0x42, 0x4D, 0xE4, 0x00, 0x00, 0x01, 0x73] s

/-- WAKE: its seven bytes and `CmdDone`, or a prefix and `CommandWriteError` (R143); the request is the execution, each
acceptance an event of its own (log entry 1), and the history's marks are the model's (log entry 7). -/
def Obligations.WakeEmitsItsFrame : Prop :=
  ∀ s : State, s.tx.busy = false → EmitsFrame .wake 3 [0x42, 0x4D, 0xE4, 0x00, 0x01, 0x01, 0x74] s

/-- The frame of the four commands: everything of the RX unit, every byte of its buffer, the host and the stimuli to come stay
as they were (R22, R144), and no output event is emitted (R135: "Output events: none"). That executing a command is its
request alone, with the emission of its bytes in later steps, is the model's reading (log entry 1). -/
def Obligations.CommandsLeaveTheRestUnchanged : Prop :=
  ∀ (i : Instr) (sel : BitVec 2) (s t : State), selectOf i = some sel → exec i s = .next t →
    t.rx = s.rx ∧ (∀ a, memRead1 t.rx a = memRead1 s.rx a) ∧ t.host = s.host ∧ t.inputs = s.inputs
      ∧ t.tx.out = s.tx.out

/-- What the encoder presents and what an acceptance takes (R136; R42, R46): while a command is sent `tx_data` is the byte at
the encoder's position, an acceptance emits exactly the byte presented before it, and after the seventh the command is
done; while idle `tx_data` is 0x00, `tx_valid` is 0 and `cmd_ready` is 1. -/
def Obligations.TxAcceptEmitsOneByte : Prop :=
  ∀ s : State,
    (s.tx.busy = true →
      (outPorts s).txValid = true ∧ (outPorts s).cmdReady = false
        ∧ (outPorts s).txData = cmdByte s.tx.sel s.tx.cnt
        ∧ ∃ t, handle .txAccept s = .next t
          ∧ t.tx.out = s.tx.out ++ .txByte (outPorts s).txData :: (if s.tx.cnt = 6 then [.cmdDone] else [])
          ∧ (s.tx.cnt = 6 → t = { s with tx :=
              { busy := false, sel := s.tx.sel, cnt := 0
                out := s.tx.out ++ [.txByte (cmdByte s.tx.sel s.tx.cnt), .cmdDone]
                log := .out .cmdDone :: .out (.txByte (cmdByte s.tx.sel s.tx.cnt)) :: s.tx.log } })
          ∧ (s.tx.cnt ≠ 6 → t = { s with tx :=
              { busy := true, sel := s.tx.sel, cnt := s.tx.cnt + 1
                out := s.tx.out ++ [.txByte (cmdByte s.tx.sel s.tx.cnt)]
                log := .out (.txByte (cmdByte s.tx.sel s.tx.cnt)) :: s.tx.log } }))
      ∧ (s.tx.busy = false →
        (outPorts s).txData = 0x00 ∧ (outPorts s).txValid = false ∧ (outPorts s).cmdReady = true)

/-- A write failure while a command is sent (R137): `CommandWriteError` with the count of accepted bytes, no byte and no
`CmdDone`, also when an acceptance is offered at the same edge, the select code kept, the encoder ready for a new request;
while idle it does nothing. -/
def Obligations.TxAbortRaisesCommandWriteError : Prop :=
  ∀ s : State,
    (s.tx.busy = true → ∃ t, handle .txAbort s = .next t
      ∧ t = { s with tx :=
          { busy := false, sel := s.tx.sel, cnt := 0
            out := s.tx.out ++ [.raised (.commandWriteError s.tx.cnt)]
            log := .out (.raised (.commandWriteError s.tx.cnt)) :: s.tx.log } }
      ∧ (outPorts t).cmdReady = true)
    ∧ (s.tx.busy = false → handle .txAbort s = .next s)
    ∧ ∀ p : Ports, p.rst = false → portConflict p s.host = false → p.txAbort = true → s.tx.busy = true →
        ∃ t, clockEdge p s = .next t
          ∧ t.tx =
            { busy := false, sel := s.tx.sel, cnt := 0
              out := [.raised (.commandWriteError s.tx.cnt)]
              log := .out (.raised (.commandWriteError s.tx.cnt)) :: s.tx.log }
          ∧ (outPorts t).cmdReady = true

/-! ### The data frame -/

/-- DATA: all fifteen words go to the reading registers, the flag is the checksum comparison, `rd_present` is set and
`FrameDone` is emitted, for every value of every word (R164, R165). -/
def Obligations.DataLoadsReading : Prop :=
  ∀ (ws : Fields) (s : State), ∃ t, exec (.data ws) s = .next t
    ∧ (∀ k, t.rx.f.get k = ws.get k)
    ∧ (t.rx.chkValid = true ↔ sum16 ([0x42, 0x4D] ++ payloadBytes ws) = ws.get 14)
    ∧ t.rx.present = true
    ∧ t.rx.out = s.rx.out ++ [.frameDone]
    ∧ t.rx.log = .out .frameDone :: s.rx.log

/-- The frame of DATA: the counter, every byte of the buffer, the whole TX unit, the host and the stimuli to come stay as
they were (R22, R165). -/
def Obligations.DataLeavesTheRestUnchanged : Prop :=
  ∀ (ws : Fields) (s t : State), exec (.data ws) s = .next t →
    t.rx.cnt = s.rx.cnt ∧ t.rx.buf = s.rx.buf ∧ t.rx.bufDraw = s.rx.bufDraw
      ∧ (∀ a, memRead1 t.rx a = memRead1 s.rx a)
      ∧ t.tx = s.tx ∧ t.host = s.host ∧ t.inputs = s.inputs

/-- A byte before the last of a frame is stored, the counter advances, nothing is emitted and nothing else changes,
whatever the byte is (R160). -/
def Obligations.RxByteStoresAndAdvances : Prop :=
  ∀ (b : Byte) (s : State), s.rx.cnt ≠ 31 →
    ∃ t, handle (.rxByte b) s = .next t
      ∧ t = { s with rx := { s.rx with cnt := s.rx.cnt + 1, buf := t.rx.buf } }
      ∧ memRead1 t.rx s.rx.cnt = b
      ∧ ∀ a, a ≠ s.rx.cnt → memRead1 t.rx a = memRead1 s.rx a

/-- The last byte of a frame with the right start bytes: the reading of the 32 bytes `B`, big-endian at offsets 2+2k, with
the flag of `B`'s sum, in one update; the byte is stored and a new frame begins (R160, R161, R164, R165). -/
def Obligations.LastByteOfFrameMakesReading : Prop :=
  ∀ (b : Byte) (s : State) (bs : Frame), bs = receivedFrame b s.rx → s.rx.cnt = 31 →
    bs.getD 0 0 = 0x42 → bs.getD 1 0 = 0x4D →
    ∃ t, handle (.rxByte b) s = .next t
      ∧ (∀ k : Fin 15, t.rx.f.get k = be16 (bs.getD (2 + 2 * k.val) 0) (bs.getD (3 + 2 * k.val) 0))
      ∧ (∀ k : Fin 15, t.rx.f.get k = memRead2 t.rx k)
      ∧ (t.rx.chkValid = true ↔ sum16 (bs.take 30) = be16 (bs.getD 30 0) (bs.getD 31 0))
      ∧ t.rx.present = true ∧ t.rx.cnt = 0
      ∧ t.rx.out = s.rx.out ++ [.frameDone] ∧ t.rx.log = .out .frameDone :: s.rx.log
      ∧ memRead1 t.rx 31 = b ∧ (∀ a, a ≠ 31 → memRead1 t.rx a = memRead1 s.rx a)
      ∧ t.tx = s.tx ∧ t.host = s.host ∧ t.inputs = s.inputs

/-- The last byte of a frame with wrong start bytes: `FramingError(got = {B[0], B[1]})`, the frame is discarded, the old
reading stays, and the next byte starts a new frame (R163; 60_exceptions R234). -/
def Obligations.FramingErrorDiscardsFrame : Prop :=
  ∀ (b : Byte) (s : State), s.rx.cnt = 31 →
    ¬(memRead1 s.rx 0 = 0x42 ∧ memRead1 s.rx 1 = 0x4D) →
    ∃ t, handle (.rxByte b) s = .next t
      ∧ t = { s with rx := { s.rx with
          cnt := 0, buf := t.rx.buf
          out := s.rx.out ++ [.raised (.framingError (be16 (memRead1 s.rx 0) (memRead1 s.rx 1)))]
          log := .out (.raised (.framingError (be16 (memRead1 s.rx 0) (memRead1 s.rx 1)))) :: s.rx.log } }
      ∧ memRead1 t.rx 31 = b ∧ ∀ a, a ≠ 31 → memRead1 t.rx a = memRead1 s.rx a

/-- A read failure: `TransportReadError` with the count of stored bytes, the frame in progress is dropped, the buffer, the
reading and the whole TX unit stay (R167). -/
def Obligations.RxAbortDropsPartialFrame : Prop :=
  ∀ s : State, ∃ t, handle .rxAbort s = .next t
    ∧ t = { s with rx := { s.rx with
        cnt := 0
        out := s.rx.out ++ [.raised (.transportReadError s.rx.cnt)]
        log := .out (.raised (.transportReadError s.rx.cnt)) :: s.rx.log } }

/-- Thirty-two bytes received from position 0, whatever they are: exactly one output event of the RX unit, at the last of
them, `FrameDone` or `FramingError` by the first two bytes alone; a framing error leaves the reading untouched, and a
reading holds the fifteen words in order with the checksum flag (R171 (b), R163, R165; 95 S4). -/
def Obligations.ThirtyTwoBytesGiveOneOutcome : Prop :=
  ∀ (bs : Frame) (rest : List Stimulus) (s : State), bs.length = 32 → s.rx.cnt = 0 →
    ∃ t, runSteps 32 (withInputs (bs.map byteEdge ++ rest) s) = .next t
      ∧ t.inputs = rest ∧ t.rx.cnt = 0
      ∧ t.rx.log = .out (frameOutcome bs) :: s.rx.log ∧ t.rx.out = [frameOutcome bs]
      ∧ (Frame.startOk bs = true → t.rx.f = fieldsOf bs ∧ t.rx.present = true
          ∧ (t.rx.chkValid = true ↔ sum16 (bs.take 30) = wordAt bs 30))
      ∧ (Frame.startOk bs = false → t.rx.f = s.rx.f ∧ t.rx.present = s.rx.present ∧ t.rx.chkValid = s.rx.chkValid)

/-- The round trip: the frame of any fifteen words, received from position 0, ends with those words in the registers
(R171 (e); 95 S4). -/
def Obligations.FrameOfWordsRoundTrips : Prop :=
  ∀ (ws : Fields) (rest : List Stimulus) (s : State), s.rx.cnt = 0 →
    ∃ t, runSteps 32 (withInputs ((encode (.data ws)).map byteEdge ++ rest) s) = .next t
      ∧ (∀ k, t.rx.f.get k = ws.get k) ∧ t.rx.present = true ∧ t.rx.out = [.frameDone]
      ∧ (t.rx.chkValid = true ↔ sum16 (coveredBytes ws) = ws.checksum)

/-! ### Reset -/

/-- `Reset` from any state: every element at its reset value, no output event, all strobes 0, a frame or command in
progress dropped without an error, and every other input of the edge ignored (R270). -/
def Obligations.ResetEventClearsTheBlock : Prop :=
  ∀ s : State, ∃ t, handle .reset s = .next t
    ∧ t.rx.cnt = 0 ∧ (∀ k, t.rx.f.get k = 0x0000) ∧ t.rx.chkValid = false ∧ t.rx.present = false
    ∧ t.tx.busy = false ∧ t.tx.sel = 0 ∧ t.tx.cnt = 0
    ∧ t.rx.out = [] ∧ t.tx.out = []
    ∧ ∀ p : Ports, p.rst = true → clockEdge p s = .next t

/-- What a reset leaves beside the block: every byte of the buffer reads as the free value of a fresh draw (log entry 3),
the host is in a new session in `Created` with no pseudo-instruction in progress (R209; log entry 6: model's choice
that the call in progress never returns), and both histories gain the mark of a reset and no output event (log entry 7:
model's own). -/
def Obligations.ResetFreesBufferAndStartsSession : Prop :=
  ∀ s : State, ∃ t, handle .reset s = .next t
    ∧ (∀ a, memRead1 t.rx a = Config.rxbufReset (s.rx.bufDraw + 1) a)
    ∧ t.host.session = .created ∧ t.host.task = .idle
    ∧ t.rx.log = .reset :: s.rx.log ∧ t.tx.log = .reset :: s.tx.log
    ∧ t.host.returns = s.host.returns ∧ t.host.seen = s.host.seen ∧ t.inputs = s.inputs

/-- The state after reset and its outputs (R50); every byte of the buffer is the free value of draw 0 (log entry 3). -/
def Obligations.ResetStateValues : Prop :=
  State.reset.rx.cnt = 0 ∧ (∀ k, State.reset.rx.f.get k = 0x0000) ∧ State.reset.rx.chkValid = false
    ∧ State.reset.rx.present = false ∧ State.reset.tx.busy = false ∧ State.reset.tx.sel = 0 ∧ State.reset.tx.cnt = 0
    ∧ (outPorts State.reset).cmdReady = true ∧ (outPorts State.reset).txValid = false
    ∧ (outPorts State.reset).txData = 0x00
    ∧ State.reset.rx.out = [] ∧ State.reset.tx.out = [] ∧ State.reset.host.session = .created
    ∧ ∀ a, memRead1 State.reset.rx a = Config.rxbufReset 0 a

/-! ### Edges -/

/-- Simultaneous inputs (R44, R47, R233): with `rst` only the reset happens; `rx_abort` makes the byte offered at the same
edge count for nothing and raises `TransportReadError`, at whatever offset the frame is; while a command is sent `tx_abort`
makes the acceptance of the same edge count for nothing and raises `CommandWriteError`; while the encoder is idle
`tx_ready` and `tx_abort` count for nothing. -/
def Obligations.SimultaneousInputsPriority : Prop :=
  ∀ (p : Ports) (s : State),
    (p.rst = true → clockEdge p s = .next (resetEvent s))
      ∧ (p.rxAbort = true → clockEdge p s = clockEdge { p with rxValid := false, rxData := 0 } s)
      ∧ (p.rst = false → portConflict p s.host = false → p.rxAbort = true → ∃ t, clockEdge p s = .next t
          ∧ t.rx = { s.rx with
              cnt := 0
              out := [.raised (.transportReadError s.rx.cnt)]
              log := .out (.raised (.transportReadError s.rx.cnt)) :: s.rx.log })
      ∧ (p.txAbort = true → clockEdge p s = clockEdge { p with txReady := false } s)
      ∧ (p.rst = false → portConflict p s.host = false → p.txAbort = true → s.tx.busy = true →
          ∃ t, clockEdge p s = .next t
            ∧ t.tx =
              { busy := false, sel := s.tx.sel, cnt := 0
                out := [.raised (.commandWriteError s.tx.cnt)]
                log := .out (.raised (.commandWriteError s.tx.cnt)) :: s.tx.log })
      ∧ (s.tx.busy = false → clockEdge p s = clockEdge { p with txReady := false, txAbort := false } s)

/-- The procedure from ports to events, unit by unit (R44, R45, R47): what an edge without reset leaves in each unit is what
the one event that the procedure names leaves there, after the strobes of the edge before have gone back to 0; with no
event the unit only loses its strobes. -/
def Obligations.EdgeFollowsPortProcedure : Prop :=
  ∀ (p : Ports) (s : State), p.rst = false → portConflict p s.host = false →
    ∃ t, clockEdge p s = .next t ∧ t.inputs = s.inputs
      ∧ (p.rxAbort = true → ∃ u, handle .rxAbort (clearStrobes s) = .next u ∧ t.rx = u.rx)
      ∧ (p.rxAbort = false → p.rxValid = true →
          ∃ u, handle (.rxByte p.rxData) (clearStrobes s) = .next u ∧ t.rx = u.rx)
      ∧ (p.rxAbort = false → p.rxValid = false → t.rx = { s.rx with out := [] })
      ∧ (s.tx.busy = true → p.txAbort = true → ∃ u, handle .txAbort (clearStrobes s) = .next u ∧ t.tx = u.tx)
      ∧ (s.tx.busy = true → p.txAbort = false → p.txReady = true →
          ∃ u, handle .txAccept (clearStrobes s) = .next u ∧ t.tx = u.tx)
      ∧ (s.tx.busy = true → p.txAbort = false → p.txReady = false → t.tx = { s.tx with out := [] })
      ∧ (s.tx.busy = false → (drivenPorts p s.host).cmdValid = true →
          ∃ u, handle (.cmdReq (drivenPorts p s.host).cmdSel) (clearStrobes s) = .next u ∧ t.tx = u.tx)
      ∧ (s.tx.busy = false → (drivenPorts p s.host).cmdValid = false → t.tx = { s.tx with out := [] })

/-- An edge raises at most one exception per unit, each unit only its own, and none at a reset (R230, R233 (a), (d),
(f)). -/
def Obligations.EdgeRaisesAtMostOnePerUnit : Prop :=
  ∀ (p : Ports) (s t : State), clockEdge p s = .next t →
    raisedCount t.rx.out ≤ 1 ∧ raisedCount t.tx.out ≤ 1
      ∧ raisedName t.rx.out ∈ [ExceptionName.none, .framingError, .transportReadError]
      ∧ raisedName t.tx.out ∈ [ExceptionName.none, .commandWriteError]
      ∧ (p.rst = true → raisedName t.rx.out = .none ∧ raisedName t.tx.out = .none)

/-- The codes of the table of exceptions, 0 for none, and which row each exception, each error and each result has; the
output events of a unit have code 0 exactly if no exception is among them (R230). -/
def Obligations.ExceptionCodes : Prop :=
  exceptionNumber .none = 0 ∧ exceptionNumber .framingError = 1 ∧ exceptionNumber .transportReadError = 2
    ∧ exceptionNumber .commandWriteError = 3 ∧ exceptionNumber .sessionClosedError = 4
    ∧ exceptionNumber .transportOpenError = 5
    ∧ (∀ got, exceptionCode (.framingError got) = 1) ∧ (∀ count, exceptionCode (.transportReadError count) = 2)
    ∧ (∀ count, exceptionCode (.commandWriteError count) = 3)
    ∧ (∀ e, hostErrorCode (.block e) = exceptionCode e) ∧ hostErrorCode .sessionClosedError = 4
    ∧ hostErrorCode .transportOpenError = 5
    ∧ exceptionNumber (resultName .done) = 0 ∧ (∀ f c, exceptionNumber (resultName (.reading f c)) = 0)
    ∧ (∀ e, exceptionNumber (resultName (.error e)) = hostErrorCode e)
    ∧ (∀ e es, exceptionNumber (raisedName (.raised e :: es)) = exceptionCode e)
    ∧ (∀ es, exceptionNumber (raisedName es) = 0 ↔ raisedCount es = 0)

/-- Every edge gives a next state, whatever the ports and the state, unless the command port has two drivers (R48). -/
def Obligations.EveryEdgeStepsOn : Prop :=
  ∀ (p : Ports) (s : State), portConflict p s.host = false → ∃ t, clockEdge p s = .next t

/-- The two units in either order: an event of the RX unit and an event of the TX unit commute (R22, R75). -/
def Obligations.UnitsCommute : Prop :=
  ∀ (e e' : InEvent) (s : State), isRxEvent e = true → isTxEvent e' = true →
    andThen (handle e s) (handle e') = andThen (handle e' s) (handle e)

/-- The partition of the state: RX events write the RX unit alone, TX events the TX unit alone (R22). -/
def Obligations.EventsWriteTheirUnitAlone : Prop :=
  ∀ (e : InEvent) (s t : State), handle e s = .next t →
    (isRxEvent e = true → t.tx = s.tx ∧ t.host = s.host ∧ t.inputs = s.inputs)
      ∧ (isTxEvent e = true → t.rx = s.rx ∧ t.host = s.host ∧ t.inputs = s.inputs)

/-- A step at an edge that presents nothing, with no request held by the host, only clears the strobes: a unit waits
without limit (R43, R49, R239, R282). -/
def Obligations.QuietEdgeOnlyClearsStrobes : Prop :=
  ∀ s : State, hostRequest s.host = none → clockEdge Ports.quiet s = .next (clearStrobes s)

/-- The five strobes with their values, and the reading outputs, in the cycle after the event that raises them: a strobe is
1 after its own event alone, and every strobe is 0 once it is cleared (R42, R43, R76, R231). -/
def Obligations.StrobesCarryTheirValues : Prop :=
  ∀ s : State,
    ((outPorts (clearStrobes s)).rdValid = false ∧ (outPorts (clearStrobes s)).errFraming = none
        ∧ (outPorts (clearStrobes s)).errRxTransport = none ∧ (outPorts (clearStrobes s)).cmdDone = false
        ∧ (outPorts (clearStrobes s)).errCmdWrite = none)
      ∧ (∀ ws, ∃ t, exec (.data ws) (clearStrobes s) = .next t
        ∧ (outPorts t).rdValid = true ∧ (outPorts t).errFraming = none ∧ (outPorts t).errRxTransport = none
        ∧ (outPorts t).rdField = ws ∧ (outPorts t).rdPresent = true
        ∧ ((outPorts t).rdChkValid = true ↔ sum16 (coveredBytes ws) = ws.checksum))
      ∧ (∀ b, s.rx.cnt = 31 → ¬(memRead1 s.rx 0 = 0x42 ∧ memRead1 s.rx 1 = 0x4D) →
        ∃ t, handle (.rxByte b) (clearStrobes s) = .next t
          ∧ (outPorts t).errFraming = some (be16 (memRead1 s.rx 0) (memRead1 s.rx 1))
          ∧ (outPorts t).rdValid = false ∧ (outPorts t).errRxTransport = none
          ∧ (outPorts t).rdField = s.rx.f ∧ (outPorts t).rdChkValid = s.rx.chkValid
          ∧ (outPorts t).rdPresent = s.rx.present)
      ∧ (∀ b, s.rx.cnt ≠ 31 → ∃ t, handle (.rxByte b) (clearStrobes s) = .next t
        ∧ (outPorts t).rdValid = false ∧ (outPorts t).errFraming = none ∧ (outPorts t).errRxTransport = none)
      ∧ (∃ t, handle .rxAbort (clearStrobes s) = .next t
        ∧ (outPorts t).errRxTransport = some s.rx.cnt
        ∧ (outPorts t).rdValid = false ∧ (outPorts t).errFraming = none
        ∧ (outPorts t).rdField = s.rx.f ∧ (outPorts t).rdChkValid = s.rx.chkValid
        ∧ (outPorts t).rdPresent = s.rx.present)
      ∧ (s.tx.busy = true → ∃ t, handle .txAccept (clearStrobes s) = .next t
        ∧ ((outPorts t).cmdDone = true ↔ s.tx.cnt = 6) ∧ (outPorts t).errCmdWrite = none)
      ∧ (s.tx.busy = true → ∃ t, handle .txAbort (clearStrobes s) = .next t
        ∧ (outPorts t).errCmdWrite = some s.tx.cnt ∧ (outPorts t).cmdDone = false)

/-! ### Steps and instructions -/

/-- A step runs the requested command: at an edge that presents a select code to the idle encoder and no RX event, the
step is the execution of that command, after the strobes of the edge before are cleared, and then the host's reaction
in the same step (R44, R101; the reaction's moment is the model's choice, log entry 14). -/
def Obligations.StepRunsRequestedCommand : Prop :=
  ∀ (s : State) (p : Ports) (rest : List Stimulus), s.inputs = .edge p :: rest → p.rst = false →
    portConflict p s.host = false → rxEventOf p = none → s.tx.busy = false →
    (drivenPorts p s.host).cmdValid = true →
    step s = andThen (exec (decodeSelect (drivenPorts p s.host).cmdSel) (clearStrobes (takeStimulus s)))
      (finishEdge false)

/-- A step runs the received data frame: at an edge that presents the last byte of a frame which decodes to `i`, and no TX
event, the step is the execution of `i` in the state with the byte stored and the counter back at 0, and then the host's
reaction in the same step (R44, R160, R161; the reaction's moment is the model's choice, log entry 14). -/
def Obligations.StepRunsReceivedFrame : Prop :=
  ∀ (s : State) (p : Ports) (inputs : List Stimulus) (i : Instr) (rest : List Byte),
    s.inputs = .edge p :: inputs → p.rst = false → portConflict p s.host = false →
    p.rxAbort = false → p.rxValid = true → s.rx.cnt = 31 →
    txEventOf (drivenPorts p s.host) s.tx.busy = none →
    decode .sensorToHost (receivedFrame p.rxData s.rx) = .ok i rest →
    step s = andThen
      (exec i (mapRx (fun u => setRxCnt 0 (memWrite1 31 p.rxData u)) (clearStrobes (takeStimulus s))))
      (finishEdge s.tx.busy)

/-- A step runs a placed pattern of the opcode table: `withFetchWord` makes the very next step the execution of the
instruction the pattern decodes to, in the given state with the strobes cleared, the host idle, and the encoder idle for a
command, or the frame's 32 bytes in the buffer for a data frame (log entry 12). -/
def Obligations.StepRunsPlacedPattern : Prop :=
  ∀ (s : State) (nbits w : Nat) (i : Instr), decodeTableWord nbits w = some i →
    ∃ s', step (s.withFetchWord nbits w) = exec i s'
      ∧ (nbits = 56 ∨ nbits = 256)
      ∧ (nbits = 56 → s' = { s with
          rx := { s.rx with out := [] }
          tx := { s.tx with busy := false, cnt := 0, out := [] }
          host := setTask .idle s.host })
      ∧ (nbits = 256 → s' = { s with
          rx := { s.rx with cnt := 0, buf := listedFrom 0 (patternBytes nbits w), out := [] }
          tx := { s.tx with out := [] }
          host := setTask .idle s.host })

/-! ### Invariants -/

/-- Every step keeps the invariants of the TX unit: idle means position 0, position 7 is never reached, and the history is
a sequence of commands whose bytes are in order, complete at each `CmdDone`, counted at each `CommandWriteError`, and never
interleaved (R138; the marks of requests and resets in the history are the model's, log entry 7). -/
def Obligations.StepKeepsTxInvariant : Prop :=
  ∀ s t : State, TxInv s.tx → step s = .next t → TxInv t.tx

/-- Every step keeps the invariants of the RX unit: the buffer in canonical form and holding every byte of the frame in
progress, no reading in the registers before the first `FrameDone` since Reset, the flag the checksum comparison of the
words beside it (R25, R27, R171 (c), (d); the mark of a reset in the history is the model's, log entry 7). -/
def Obligations.StepKeepsRxInvariant : Prop :=
  ∀ s t : State, RxInv s.rx → step s = .next t → RxInv t.rx

/-- Every step keeps the invariants of host and encoder: a pseudo-instruction is in progress only in the session states
that allow it, and while the host awaits a command the encoder is sending that very command (R201, R203, R205, R206). The second clause is
the model's choice: it holds because the model's host reacts to a strobe in the step of its edge (log entry 14), and
because a reset ends the call in progress (log entry 6). -/
def Obligations.StepKeepsHostInvariant : Prop :=
  ∀ s t : State, HostInv s → step s = .next t → HostInv t

/-- The three invariants hold after reset (R50). -/
def Obligations.InvariantsHoldAtReset : Prop :=
  TxInv State.reset.tx ∧ RxInv State.reset.rx ∧ HostInv State.reset

/-- What the buffer holds beyond the received bytes is never observable: two states that differ only there and in the draw
of `RXBUF_RESET` step alike, to states that differ only there (R25, R50, U12). -/
def Obligations.BufferResetContentsUnobservable : Prop :=
  ∀ s s' : State, SameButBuffer s s' → SameOutcome (step s) (step s')

/-- A valid flag bounds the transmitted checksum, in every state that meets the RX invariant (R171 (f)). -/
def Obligations.ValidFlagBoundsChecksum : Prop :=
  ∀ u : RxUnit, RxInv u → u.chkValid = true → (u.f.get 14).toNat ≤ 0x1C73

/-! ### Whole-machine rules -/

/-- The reading changes only at a `FrameDone` or a Reset (R26, R28, R76): over one step, any change of `F`, the flag or
`rd_present` comes with `FrameDone` among the outputs, or the step was a reset edge. -/
def Obligations.ReadingChangesOnlyAtFrameDone : Prop :=
  ∀ s t : State, step s = .next t → nextIsReset s = false → OutEvent.frameDone ∉ t.rx.out →
    t.rx.f = s.rx.f ∧ t.rx.chkValid = s.rx.chkValid ∧ t.rx.present = s.rx.present

/-- `rd_present` is never cleared except by Reset (R29). -/
def Obligations.PresentClearedOnlyByReset : Prop :=
  ∀ s t : State, step s = .next t → nextIsReset s = false → s.rx.present = true → t.rx.present = true

/-- `tx_sel` is written by a command request and cleared by Reset, and kept otherwise (R32); the request shows as its mark
in the model's history (log entry 7). -/
def Obligations.SelectChangesOnlyByRequest : Prop :=
  ∀ s t : State, step s = .next t → nextIsReset s = false →
    t.tx.sel = s.tx.sel ∨ t.tx.log = .cmdReq t.tx.sel :: s.tx.log

/-- The RX counter never moves because of a byte's value: any two bytes advance it alike, by one modulo 32 (R24, R170). -/
def Obligations.ByteValuesNeverMoveTheCounter : Prop :=
  ∀ (b b' : Byte) (s : State), ∃ t t', handle (.rxByte b) s = .next t ∧ handle (.rxByte b') s = .next t'
    ∧ t.rx.cnt = s.rx.cnt + 1 ∧ t'.rx.cnt = s.rx.cnt + 1

/-! ### The host -/

/-- The table of 42_host_session R201 for a host with no pseudo-instruction in progress: a lawful call begins exactly the
task of its expansion (R203 to R206), or closes and returns (R207), and touches nothing else; a "no move" is refused by
name (R243; log entry 9). -/
def Obligations.HostCallTable : Prop :=
  ∀ (c : HostCall) (s : State), s.host.session ≠ .closed → s.host.task = .idle →
    (lawfulCall c s.host.session = true →
        ∃ t, hostCall c s = .next t ∧ t.rx = s.rx ∧ t.tx = s.tx ∧ t.inputs = s.inputs
          ∧ (∀ m, c = .initializeSession m →
              t.host = { s.host with mode := m, task := .command .initMode .requesting })
          ∧ (c = .read → t.host = { s.host with task := .reading })
          ∧ (c = .sleep → t.host = { s.host with task := .command .sleep .requesting })
          ∧ (c = .wake → t.host = { s.host with task := .command .wake .requesting })
          ∧ (c = .close → t.host =
              { s.host with session := .closed, returns := ⟨.close, .done⟩ :: s.host.returns }))
      ∧ (lawfulCall c s.host.session = false → hostCall c s = .refused (.noMove c s.host.session))

/-- Any operation in `Closed` returns `SessionClosedError`, causes no block event and leaves the session closed (R208). -/
def Obligations.ClosedSessionReturnsError : Prop :=
  ∀ (c : HostCall) (s : State), s.host.session = .closed →
    ∃ t, hostCall c s = .next t ∧ t.rx = s.rx ∧ t.tx = s.tx ∧ t.inputs = s.inputs
      ∧ t.host.session = .closed ∧ t.host.returns = ⟨c, .error .sessionClosedError⟩ :: s.host.returns

/-- A closed session stays closed until a reset starts a new one, in every state that meets the host invariant (R201,
R209; that invariant rests on log entry 14, the model's choice). -/
def Obligations.ClosedStaysClosed : Prop :=
  ∀ s t : State, HostInv s → step s = .next t → nextIsReset s = false → s.host.session = .closed →
    t.host.session = .closed

/-- The request the host holds waits while the encoder is busy and is accepted at the first edge at which it is idle
(R45, R209), with the select code of its command: the mode's for the first of `initialize`, then 3, 2 for `sleep`, 3 for
`wake` (R101, R203, R205, R206). That the host knows of the acceptance in the step of that edge is the model's choice (log
entry 14). -/
def Obligations.HostRequestHeldUntilAccepted : Prop :=
  ∀ (p : Ports) (use : CommandUse) (s : State), p.rst = false → p.cmdValid = false →
    s.host.task = .command use .requesting →
    (s.tx.busy = true → ∃ t, clockEdge p s = .next t ∧ t.host = s.host)
      ∧ (s.tx.busy = false → ∃ t, clockEdge p s = .next t ∧ t.host = setTask (.command use .awaiting) s.host
          ∧ t.tx.busy = true ∧ t.tx.cnt = 0
          ∧ (use = .initMode → t.tx.sel = if s.host.mode = .active then 1 else 0)
          ∧ (use = .initWake → t.tx.sel = 3) ∧ (use = .sleep → t.tx.sel = 2) ∧ (use = .wake → t.tx.sel = 3))

/-- `initialize(mode)` with every byte accepted: the mode command (select code 1 for Active, 0 for Passive), immediately
followed by `WAKE`, then `Ready`; the fourteen bytes on the wire in that order, for each mode (R101, R203; 95 S4, P1). That
the session moves in the step of the strobe and that `WAKE` is on the port at the very next edge is the model's choice (log
entry 14); the marks of the requests in the history are the model's (log entry 7). -/
def Obligations.InitializeSendsModeThenWake : Prop :=
  ∀ (m : Mode) (rest : List Stimulus) (s : State),
    s.host.session = .created → s.host.task = .idle → s.tx.busy = false →
    ∃ t, runSteps 17 (withInputs (.call (.initializeSession m) :: (commandStimuli ++ commandStimuli) ++ rest) s) = .next t
      ∧ t = afterCommand (commandSent 3 (commandSent (if m = .active then 1 else 0) s.tx))
          { s.host with session := .ready, mode := m, task := .idle,
                        returns := ⟨.initializeSession m, .done⟩ :: s.host.returns } rest s
      ∧ (m = .passive → t.tx.log =
          .out .cmdDone :: sentRecords [0x42, 0x4D, 0xE4, 0x00, 0x01, 0x01, 0x74] 3
            (.out .cmdDone :: sentRecords [0x42, 0x4D, 0xE1, 0x00, 0x00, 0x01, 0x70] 0 s.tx.log))
      ∧ (m = .active → t.tx.log =
          .out .cmdDone :: sentRecords [0x42, 0x4D, 0xE4, 0x00, 0x01, 0x01, 0x74] 3
            (.out .cmdDone :: sentRecords [0x42, 0x4D, 0xE1, 0x00, 0x01, 0x01, 0x71] 1 s.tx.log))

/-- `initialize(mode)` with a write failure after `n` bytes: in the mode command it returns the error and never sends
`WAKE`; in `WAKE` it returns the error; in both the session stays `Created`. The bytes on the wire are the first `n` of the
mode's own command, or all seven of it and the first `n` of `WAKE` (R101, R203). That the error is returned in the step of
the failure is the model's choice (log entry 14); the marks of the requests in the history are the model's (log
entry 7). -/
def Obligations.InitializeFailureStaysCreated : Prop :=
  ∀ (m : Mode) (n : Nat) (rest : List Stimulus) (s : State), n < 7 →
    s.host.session = .created → s.host.task = .idle → s.tx.busy = false →
    (∃ t, runSteps (n + 3) (withInputs (.call (.initializeSession m) :: failedCommandStimuli n ++ rest) s) = .next t
        ∧ t = afterCommand (commandCut (if m = .active then 1 else 0) n s.tx)
            { s.host with mode := m, task := .idle, returns :=
              ⟨.initializeSession m, .error (.block (.commandWriteError (BitVec.ofNat 3 n)))⟩ :: s.host.returns } rest s
        ∧ (m = .passive → t.tx.log = .out (.raised (.commandWriteError (BitVec.ofNat 3 n)))
            :: sentRecords (List.take n [0x42, 0x4D, 0xE1, 0x00, 0x00, 0x01, 0x70]) 0 s.tx.log)
        ∧ (m = .active → t.tx.log = .out (.raised (.commandWriteError (BitVec.ofNat 3 n)))
            :: sentRecords (List.take n [0x42, 0x4D, 0xE1, 0x00, 0x01, 0x01, 0x71]) 1 s.tx.log))
      ∧ (∃ t, runSteps (n + 11)
            (withInputs (.call (.initializeSession m) :: (commandStimuli ++ failedCommandStimuli n) ++ rest) s) = .next t
        ∧ t = afterCommand (commandCut 3 n (commandSent (if m = .active then 1 else 0) s.tx))
            { s.host with mode := m, task := .idle, returns :=
              ⟨.initializeSession m, .error (.block (.commandWriteError (BitVec.ofNat 3 n)))⟩ :: s.host.returns } rest s
        ∧ (m = .passive → t.tx.log = .out (.raised (.commandWriteError (BitVec.ofNat 3 n)))
            :: sentRecords (List.take n [0x42, 0x4D, 0xE4, 0x00, 0x01, 0x01, 0x74]) 3
              (.out .cmdDone :: sentRecords [0x42, 0x4D, 0xE1, 0x00, 0x00, 0x01, 0x70] 0 s.tx.log))
        ∧ (m = .active → t.tx.log = .out (.raised (.commandWriteError (BitVec.ofNat 3 n)))
            :: sentRecords (List.take n [0x42, 0x4D, 0xE4, 0x00, 0x01, 0x01, 0x74]) 3
              (.out .cmdDone :: sentRecords [0x42, 0x4D, 0xE1, 0x00, 0x01, 0x01, 0x71] 1 s.tx.log)))

/-- `sleep` from `Ready` and `wake` from `Ready` or `Sleeping`: all bytes accepted they end in `Sleeping` and `Ready`; on a
write failure they return the error and the session state stays (R205, R206; 95 P3). That this happens in the step of the
strobe is the model's choice (log entry 14); the marks of the requests in the history are the model's (log entry 7). -/
def Obligations.SleepAndWakeMoveTheSession : Prop :=
  ∀ (n : Nat) (rest : List Stimulus) (s : State), n < 7 → s.host.task = .idle → s.tx.busy = false →
    (s.host.session = .ready →
      runSteps 9 (withInputs (.call .sleep :: commandStimuli ++ rest) s)
          = .next (afterCommand (commandSent 2 s.tx)
              { s.host with session := .sleeping, returns := ⟨.sleep, .done⟩ :: s.host.returns } rest s)
        ∧ runSteps (n + 3) (withInputs (.call .sleep :: failedCommandStimuli n ++ rest) s)
          = .next (afterCommand (commandCut 2 n s.tx)
              { s.host with returns :=
                ⟨.sleep, .error (.block (.commandWriteError (BitVec.ofNat 3 n)))⟩ :: s.host.returns } rest s))
    ∧ (s.host.session = .ready ∨ s.host.session = .sleeping →
      runSteps 9 (withInputs (.call .wake :: commandStimuli ++ rest) s)
          = .next (afterCommand (commandSent 3 s.tx)
              { s.host with session := .ready, returns := ⟨.wake, .done⟩ :: s.host.returns } rest s)
        ∧ runSteps (n + 3) (withInputs (.call .wake :: failedCommandStimuli n ++ rest) s)
          = .next (afterCommand (commandCut 3 n s.tx)
              { s.host with returns :=
                ⟨.wake, .error (.block (.commandWriteError (BitVec.ofNat 3 n)))⟩ :: s.host.returns } rest s))

/-- `read` returns the next frame outcome, and waits at every edge without one; the session stays as it is (R204). That it returns in the very step of the outcome is the model's choice (log
entry 14; a slower host may miss a strobe). -/
def Obligations.ReadReturnsNextOutcome : Prop :=
  ∀ (p : Ports) (s : State), p.rst = false → s.host.task = .reading →
    ∃ t, clockEdge p s = .next t
      ∧ (p.rxAbort = true → t.host = { s.host with task := .idle, returns :=
          ⟨.read, .error (.block (.transportReadError s.rx.cnt))⟩ :: s.host.returns })
      ∧ (p.rxAbort = false → p.rxValid = true → s.rx.cnt = 31 →
          (Frame.startOk (receivedFrame p.rxData s.rx) = true →
            t.host = { s.host with task := .idle, returns :=
              ⟨.read, .reading (fieldsOf (receivedFrame p.rxData s.rx))
                (checksumFlag (fieldsOf (receivedFrame p.rxData s.rx)))⟩ :: s.host.returns })
          ∧ (Frame.startOk (receivedFrame p.rxData s.rx) = false →
            t.host = { s.host with task := .idle, returns :=
              ⟨.read, .error (.block (.framingError (wordAt (receivedFrame p.rxData s.rx) 0)))⟩ :: s.host.returns }))
      ∧ (p.rxAbort = false → (p.rxValid = false ∨ s.rx.cnt ≠ 31) → t.host = s.host)

/-- What a host look shows (R68, R209, R288): `F[k]` only once there is a reading, and no value before (R27; log entry 16);
`rd_chk_valid` and `rd_present` at any time. A host read of `F` copies the reading and its flag; while there is
none the read is refused: it gives the host no value (R243, R27), which the model records, going on (log entry 16). Neither
changes anything but what the host has seen. -/
def Obligations.LookNeedsAReading : Prop :=
  ∀ (k : Fin 15) (s : State), s.host.session ≠ .closed →
    (s.rx.present = false → ∃ t, hostLook (.field k) s = .next t
          ∧ t = { s with host := { s.host with seen := .noReading k :: s.host.seen } })
      ∧ (s.rx.present = true → ∃ t, hostLook (.field k) s = .next t
          ∧ t = { s with host := { s.host with seen := .field k (s.rx.f.get k) :: s.host.seen } })
      ∧ (∃ t, hostLook .chkValid s = .next t
          ∧ t = { s with host := { s.host with seen := .chkValid s.rx.chkValid :: s.host.seen } })
      ∧ (∃ t, hostLook .present s = .next t
          ∧ t = { s with host := { s.host with seen := .present s.rx.present :: s.host.seen } })
      ∧ (s.rx.present = true → ∃ t, hostReadF s = .next t
          ∧ t = { s with host := { s.host with seen := .copied s.rx.f s.rx.chkValid :: s.host.seen } })
      ∧ (s.rx.present = false → ∃ t, hostReadF s = .next t
          ∧ t = { s with host := { s.host with seen := .readRefused :: s.host.seen } })

/-- The refusals beside `noMove`, each by name and without any effect (93 U7, R243; log entries 8 and 9): a call
while another is in progress (R202), the command port driven while the host's own request is on it (R287; unless the edge
is a reset), and a look or a read of `F` after `close` (R207). -/
def Obligations.UnlawfulMovesAreRefused : Prop :=
  ∀ s : State,
    (∀ c : HostCall, s.host.session ≠ .closed → s.host.task ≠ .idle → hostCall c s = .refused .callInProgress)
      ∧ (∀ p : Ports, p.rst = false → portConflict p s.host = true → clockEdge p s = .refused .twoDrivers)
      ∧ (∀ l : Look, s.host.session = .closed → hostLook l s = .refused .lookAfterClose)
      ∧ (s.host.session = .closed → hostReadF s = .refused .lookAfterClose)
end

