-- ==== Sys2Proof/Laws/State.lean ====
section
/-! SUPPORT. What each named update of the state leaves in each field, so that no proof unfolds a record update. -/

namespace Sys2Proof.Machine

/-! ### Changes of one part of the state -/

@[simp] theorem mapRx_rx (g : RxUnit → RxUnit) (s : State) : (mapRx g s).rx = g s.rx := rfl
@[simp] theorem mapRx_tx (g : RxUnit → RxUnit) (s : State) : (mapRx g s).tx = s.tx := rfl
@[simp] theorem mapRx_host (g : RxUnit → RxUnit) (s : State) : (mapRx g s).host = s.host := rfl
@[simp] theorem mapRx_inputs (g : RxUnit → RxUnit) (s : State) : (mapRx g s).inputs = s.inputs := rfl
@[simp] theorem mapTx_rx (g : TxUnit → TxUnit) (s : State) : (mapTx g s).rx = s.rx := rfl
@[simp] theorem mapTx_tx (g : TxUnit → TxUnit) (s : State) : (mapTx g s).tx = g s.tx := rfl
@[simp] theorem mapTx_host (g : TxUnit → TxUnit) (s : State) : (mapTx g s).host = s.host := rfl
@[simp] theorem mapTx_inputs (g : TxUnit → TxUnit) (s : State) : (mapTx g s).inputs = s.inputs := rfl
@[simp] theorem mapHost_rx (g : HostAgent → HostAgent) (s : State) : (mapHost g s).rx = s.rx := rfl
@[simp] theorem mapHost_tx (g : HostAgent → HostAgent) (s : State) : (mapHost g s).tx = s.tx := rfl
@[simp] theorem mapHost_host (g : HostAgent → HostAgent) (s : State) : (mapHost g s).host = g s.host := rfl
@[simp] theorem mapHost_inputs (g : HostAgent → HostAgent) (s : State) : (mapHost g s).inputs = s.inputs := rfl

/-- Changes of different units commute (10_state R22). -/
theorem mapRx_mapTx_comm (g : RxUnit → RxUnit) (h : TxUnit → TxUnit) (s : State) :
    mapRx g (mapTx h s) = mapTx h (mapRx g s) := rfl

/-! ### Stimuli and strobes -/

@[simp] theorem takeStimulus_rx (s : State) : (takeStimulus s).rx = s.rx := rfl
@[simp] theorem takeStimulus_tx (s : State) : (takeStimulus s).tx = s.tx := rfl
@[simp] theorem takeStimulus_host (s : State) : (takeStimulus s).host = s.host := rfl
@[simp] theorem takeStimulus_inputs (s : State) : (takeStimulus s).inputs = s.inputs.tail := rfl
@[simp] theorem clearStrobes_host (s : State) : (clearStrobes s).host = s.host := rfl
@[simp] theorem clearStrobes_inputs (s : State) : (clearStrobes s).inputs = s.inputs := rfl
@[simp] theorem clearStrobes_rx (s : State) : (clearStrobes s).rx = { s.rx with out := [] } := rfl
@[simp] theorem clearStrobes_tx (s : State) : (clearStrobes s).tx = { s.tx with out := [] } := rfl

/-! ### The RX unit -/

@[simp] theorem emitRx_cnt (e : OutEvent) (u : RxUnit) : (emitRx e u).cnt = u.cnt := rfl
@[simp] theorem emitRx_buf (e : OutEvent) (u : RxUnit) : (emitRx e u).buf = u.buf := rfl
@[simp] theorem emitRx_bufDraw (e : OutEvent) (u : RxUnit) : (emitRx e u).bufDraw = u.bufDraw := rfl
@[simp] theorem emitRx_f (e : OutEvent) (u : RxUnit) : (emitRx e u).f = u.f := rfl
@[simp] theorem emitRx_chkValid (e : OutEvent) (u : RxUnit) : (emitRx e u).chkValid = u.chkValid := rfl
@[simp] theorem emitRx_present (e : OutEvent) (u : RxUnit) : (emitRx e u).present = u.present := rfl
@[simp] theorem emitRx_out (e : OutEvent) (u : RxUnit) : (emitRx e u).out = u.out ++ [e] := rfl
@[simp] theorem emitRx_log (e : OutEvent) (u : RxUnit) : (emitRx e u).log = .out e :: u.log := rfl

@[simp] theorem setRxCnt_cnt (v : BitVec 5) (u : RxUnit) : (setRxCnt v u).cnt = v := rfl
@[simp] theorem setRxCnt_buf (v : BitVec 5) (u : RxUnit) : (setRxCnt v u).buf = u.buf := rfl
@[simp] theorem setRxCnt_bufDraw (v : BitVec 5) (u : RxUnit) : (setRxCnt v u).bufDraw = u.bufDraw := rfl
@[simp] theorem setRxCnt_f (v : BitVec 5) (u : RxUnit) : (setRxCnt v u).f = u.f := rfl
@[simp] theorem setRxCnt_chkValid (v : BitVec 5) (u : RxUnit) : (setRxCnt v u).chkValid = u.chkValid := rfl
@[simp] theorem setRxCnt_present (v : BitVec 5) (u : RxUnit) : (setRxCnt v u).present = u.present := rfl
@[simp] theorem setRxCnt_out (v : BitVec 5) (u : RxUnit) : (setRxCnt v u).out = u.out := rfl
@[simp] theorem setRxCnt_log (v : BitVec 5) (u : RxUnit) : (setRxCnt v u).log = u.log := rfl

@[simp] theorem memWrite1_cnt (a : BitVec 5) (b : Byte) (u : RxUnit) : (memWrite1 a b u).cnt = u.cnt := rfl
@[simp] theorem memWrite1_buf (a : BitVec 5) (b : Byte) (u : RxUnit) :
    (memWrite1 a b u).buf = memInsert u.buf a.toNat b := rfl
@[simp] theorem memWrite1_bufDraw (a : BitVec 5) (b : Byte) (u : RxUnit) : (memWrite1 a b u).bufDraw = u.bufDraw := rfl
@[simp] theorem memWrite1_f (a : BitVec 5) (b : Byte) (u : RxUnit) : (memWrite1 a b u).f = u.f := rfl
@[simp] theorem memWrite1_chkValid (a : BitVec 5) (b : Byte) (u : RxUnit) :
    (memWrite1 a b u).chkValid = u.chkValid := rfl
@[simp] theorem memWrite1_present (a : BitVec 5) (b : Byte) (u : RxUnit) : (memWrite1 a b u).present = u.present := rfl
@[simp] theorem memWrite1_out (a : BitVec 5) (b : Byte) (u : RxUnit) : (memWrite1 a b u).out = u.out := rfl
@[simp] theorem memWrite1_log (a : BitVec 5) (b : Byte) (u : RxUnit) : (memWrite1 a b u).log = u.log := rfl

@[simp] theorem loadReading_cnt (ws : Fields) (c : Bool) (u : RxUnit) : (loadReading ws c u).cnt = u.cnt := rfl
@[simp] theorem loadReading_buf (ws : Fields) (c : Bool) (u : RxUnit) : (loadReading ws c u).buf = u.buf := rfl
@[simp] theorem loadReading_bufDraw (ws : Fields) (c : Bool) (u : RxUnit) :
    (loadReading ws c u).bufDraw = u.bufDraw := rfl
@[simp] theorem loadReading_f (ws : Fields) (c : Bool) (u : RxUnit) : (loadReading ws c u).f = ws := rfl
@[simp] theorem loadReading_chkValid (ws : Fields) (c : Bool) (u : RxUnit) : (loadReading ws c u).chkValid = c := rfl
@[simp] theorem loadReading_present (ws : Fields) (c : Bool) (u : RxUnit) : (loadReading ws c u).present = true := rfl
@[simp] theorem loadReading_out (ws : Fields) (c : Bool) (u : RxUnit) : (loadReading ws c u).out = u.out := rfl
@[simp] theorem loadReading_log (ws : Fields) (c : Bool) (u : RxUnit) : (loadReading ws c u).log = u.log := rfl

/-! ### The TX unit -/

@[simp] theorem emitTx_busy (e : OutEvent) (u : TxUnit) : (emitTx e u).busy = u.busy := rfl
@[simp] theorem emitTx_sel (e : OutEvent) (u : TxUnit) : (emitTx e u).sel = u.sel := rfl
@[simp] theorem emitTx_cnt (e : OutEvent) (u : TxUnit) : (emitTx e u).cnt = u.cnt := rfl
@[simp] theorem emitTx_out (e : OutEvent) (u : TxUnit) : (emitTx e u).out = u.out ++ [e] := rfl
@[simp] theorem emitTx_log (e : OutEvent) (u : TxUnit) : (emitTx e u).log = .out e :: u.log := rfl

@[simp] theorem setTxCnt_busy (v : BitVec 3) (u : TxUnit) : (setTxCnt v u).busy = u.busy := rfl
@[simp] theorem setTxCnt_sel (v : BitVec 3) (u : TxUnit) : (setTxCnt v u).sel = u.sel := rfl
@[simp] theorem setTxCnt_cnt (v : BitVec 3) (u : TxUnit) : (setTxCnt v u).cnt = v := rfl
@[simp] theorem setTxCnt_out (v : BitVec 3) (u : TxUnit) : (setTxCnt v u).out = u.out := rfl
@[simp] theorem setTxCnt_log (v : BitVec 3) (u : TxUnit) : (setTxCnt v u).log = u.log := rfl

@[simp] theorem endCommand_busy (u : TxUnit) : (endCommand u).busy = false := rfl
@[simp] theorem endCommand_sel (u : TxUnit) : (endCommand u).sel = u.sel := rfl
@[simp] theorem endCommand_cnt (u : TxUnit) : (endCommand u).cnt = 0 := rfl
@[simp] theorem endCommand_out (u : TxUnit) : (endCommand u).out = u.out := rfl
@[simp] theorem endCommand_log (u : TxUnit) : (endCommand u).log = u.log := rfl

@[simp] theorem startCommand_busy (x : BitVec 2) (u : TxUnit) : (startCommand x u).busy = true := rfl
@[simp] theorem startCommand_sel (x : BitVec 2) (u : TxUnit) : (startCommand x u).sel = x := rfl
@[simp] theorem startCommand_cnt (x : BitVec 2) (u : TxUnit) : (startCommand x u).cnt = 0 := rfl
@[simp] theorem startCommand_out (x : BitVec 2) (u : TxUnit) : (startCommand x u).out = u.out := rfl
@[simp] theorem startCommand_log (x : BitVec 2) (u : TxUnit) : (startCommand x u).log = .cmdReq x :: u.log := rfl

/-! ### The host -/

@[simp] theorem setTask_task (t : HostTask) (h : HostAgent) : (setTask t h).task = t := rfl
@[simp] theorem setTask_session (t : HostTask) (h : HostAgent) : (setTask t h).session = h.session := rfl
@[simp] theorem setTask_mode (t : HostTask) (h : HostAgent) : (setTask t h).mode = h.mode := rfl
@[simp] theorem setTask_returns (t : HostTask) (h : HostAgent) : (setTask t h).returns = h.returns := rfl
@[simp] theorem setTask_seen (t : HostTask) (h : HostAgent) : (setTask t h).seen = h.seen := rfl
@[simp] theorem setSession_task (x : Session) (h : HostAgent) : (setSession x h).task = h.task := rfl
@[simp] theorem setSession_session (x : Session) (h : HostAgent) : (setSession x h).session = x := rfl
@[simp] theorem setSession_mode (x : Session) (h : HostAgent) : (setSession x h).mode = h.mode := rfl
@[simp] theorem setSession_returns (x : Session) (h : HostAgent) : (setSession x h).returns = h.returns := rfl
@[simp] theorem setSession_seen (x : Session) (h : HostAgent) : (setSession x h).seen = h.seen := rfl
@[simp] theorem returnResult_task (c : HostCall) (r : HostResult) (h : HostAgent) : (returnResult c r h).task = .idle := rfl
@[simp] theorem returnResult_session (c : HostCall) (r : HostResult) (h : HostAgent) :
    (returnResult c r h).session = h.session := rfl
@[simp] theorem returnResult_mode (c : HostCall) (r : HostResult) (h : HostAgent) :
    (returnResult c r h).mode = h.mode := rfl
@[simp] theorem returnResult_returns (c : HostCall) (r : HostResult) (h : HostAgent) :
    (returnResult c r h).returns = ⟨c, r⟩ :: h.returns := rfl
@[simp] theorem returnResult_seen (c : HostCall) (r : HostResult) (h : HostAgent) :
    (returnResult c r h).seen = h.seen := rfl
@[simp] theorem recordSeen_session (x : Seen) (h : HostAgent) : (recordSeen x h).session = h.session := rfl
@[simp] theorem recordSeen_mode (x : Seen) (h : HostAgent) : (recordSeen x h).mode = h.mode := rfl
@[simp] theorem recordSeen_task (x : Seen) (h : HostAgent) : (recordSeen x h).task = h.task := rfl
@[simp] theorem recordSeen_returns (x : Seen) (h : HostAgent) : (recordSeen x h).returns = h.returns := rfl
@[simp] theorem recordSeen_seen (x : Seen) (h : HostAgent) : (recordSeen x h).seen = x :: h.seen := rfl
@[simp] theorem beginInitialize_task (m : Mode) (h : HostAgent) :
    (beginInitialize m h).task = .command .initMode .requesting := rfl
@[simp] theorem beginInitialize_session (m : Mode) (h : HostAgent) : (beginInitialize m h).session = h.session := rfl
@[simp] theorem beginInitialize_mode (m : Mode) (h : HostAgent) : (beginInitialize m h).mode = m := rfl
@[simp] theorem beginInitialize_returns (m : Mode) (h : HostAgent) : (beginInitialize m h).returns = h.returns := rfl
@[simp] theorem beginInitialize_seen (m : Mode) (h : HostAgent) : (beginInitialize m h).seen = h.seen := rfl

end Sys2Proof.Machine
end

