-- ==== Sys2Proof/Laws/Memory.lean ====
section
/-! SUPPORT. The frame buffer: a read after a write, other offsets left alone, and the canonical form kept
(00_scope R11, 10_state R25). -/

namespace Sys2Proof.Machine

/-- A byte just stored is the byte listed there. -/
theorem memLookup_memInsert_same (m : Memory) (a : Nat) (b : Byte) : memLookup (memInsert m a b) a = some b := by
  induction m with
  | nil => simp [memInsert, memLookup]
  | cons c m ih =>
    unfold memInsert
    split
    · simp [memLookup]
    · split
      · simp [memLookup]
      · simp [memLookup, *]

/-- A store leaves every other offset alone. -/
theorem memLookup_memInsert_other (m : Memory) {a a' : Nat} (b : Byte) (h : a' ≠ a) :
    memLookup (memInsert m a b) a' = memLookup m a' := by
  induction m with
  | nil => simp [memInsert, memLookup, Ne.symm h]
  | cons c m ih =>
    unfold memInsert
    split
    · simp [memLookup, Ne.symm h]
    · split
      · next hc => simp [memLookup, hc, Ne.symm h]
      · simp [memLookup, ih]

/-- Every cell of a buffer after a store is the stored one or was there before. -/
theorem mem_memInsert {m : Memory} {a : Nat} {b : Byte} {c : Host.Cell} (h : c ∈ memInsert m a b) :
    c = (a, b) ∨ c ∈ m := by
  induction m with
  | nil => simpa [memInsert] using h
  | cons d m ih =>
    unfold memInsert at h
    split at h
    · exact List.mem_cons.mp h
    · split at h
      · simp only [List.mem_cons] at h ⊢
        tauto
      · simp only [List.mem_cons] at h ⊢
        rcases h with h | h
        · tauto
        · have := ih h
          tauto

/-- A store at an offset inside the buffer keeps the canonical form. -/
theorem memInsert_wf {m : Memory} {a : Nat} {b : Byte} (ha : a < Config.frameLen) (hm : Memory.wf m) :
    Memory.wf (memInsert m a b) := by
  obtain ⟨hp, hb⟩ := hm
  refine ⟨?_, fun c hc => ?_⟩
  · induction m with
    | nil => simp [memInsert]
    | cons c m ih =>
      have hp' := List.pairwise_cons.mp hp
      unfold memInsert
      split
      · next hac =>
        refine List.pairwise_cons.mpr ⟨fun d hd => ?_, hp⟩
        rcases List.mem_cons.mp hd with rfl | hd
        · exact hac
        · exact Nat.lt_trans hac (hp'.1 d hd)
      · split
        · next hca => exact List.pairwise_cons.mpr ⟨fun d hd => by simpa [← hca] using hp'.1 d hd, hp'.2⟩
        · next hac hca =>
          refine List.pairwise_cons.mpr ⟨fun d hd => ?_, ih hp'.2 fun d hd => hb d (List.mem_cons_of_mem _ hd)⟩
          rcases mem_memInsert hd with rfl | hd
          · exact by simp only []; omega
          · exact hp'.1 d hd
  · rcases mem_memInsert hc with rfl | hc
    · exact ha
    · exact hb c hc

/-- `MemWrite` keeps the canonical form at every offset (R35: offsets have five bits). -/
theorem memWrite1_wf (a : BitVec 5) (b : Byte) {u : RxUnit} (h : Memory.wf u.buf) : Memory.wf (memWrite1 a b u).buf :=
  memInsert_wf (by have := a.isLt; simpa [Config.frameLen] using this) h

/-- `MemRead` of the byte just written (R11). -/
@[simp] theorem memRead1_memWrite1_same (a : BitVec 5) (b : Byte) (u : RxUnit) : memRead1 (memWrite1 a b u) a = b := by
  simp [memRead1, memLookup_memInsert_same]

/-- `MemWrite` leaves every other offset alone (R11). -/
theorem memRead1_memWrite1_other {a a' : BitVec 5} (b : Byte) (u : RxUnit) (h : a' ≠ a) :
    memRead1 (memWrite1 a b u) a' = memRead1 u a' := by
  have h' : a'.toNat ≠ a.toNat := fun e => h (BitVec.eq_of_toNat_eq e)
  simp [memRead1, memLookup_memInsert_other u.buf b h']

/-- A read depends on the buffer and its draw alone. -/
@[simp] theorem memRead1_setRxCnt (v : BitVec 5) (u : RxUnit) (a : BitVec 5) :
    memRead1 (setRxCnt v u) a = memRead1 u a := rfl

@[simp] theorem memRead1_emitRx (e : OutEvent) (u : RxUnit) (a : BitVec 5) : memRead1 (emitRx e u) a = memRead1 u a := rfl

@[simp] theorem memRead1_loadReading (ws : Fields) (c : Bool) (u : RxUnit) (a : BitVec 5) :
    memRead1 (loadReading ws c u) a = memRead1 u a := rfl

/-- The buffer after reset is in canonical form. -/
theorem reset_memory_wf : Memory.wf State.reset.rx.buf := by decide

end Sys2Proof.Machine
end

