-- ==== Sys2Proof/Laws/Bytes.lean ====
section
/-! SUPPORT. Byte order and field access: assembling and taking apart a word are inverse (20_memory R60, 30_encoding R93,
R94), and fields by index. -/

namespace Sys2Proof

@[simp] theorem be16_hiByte_loByte (w : Word) : be16 (hiByte w) (loByte w) = w := by
  apply BitVec.eq_of_getLsbD_eq
  intro i hi
  simp only [be16, hiByte, loByte, BitVec.getLsbD_append, BitVec.getLsbD_extractLsb']
  by_cases h : i < 8
  · simp [h]
  · simp [h, show i - 8 < 8 by omega, show 8 + (i - 8) = i by omega]

@[simp] theorem hiByte_be16 (hi lo : Byte) : hiByte (be16 hi lo) = hi := by
  apply BitVec.eq_of_getLsbD_eq
  intro i h
  simp only [be16, hiByte, BitVec.getLsbD_extractLsb', BitVec.getLsbD_append, h, decide_true, Bool.true_and]
  simp [show ¬ 8 + i < 8 by omega, show 8 + i - 8 = i by omega]

@[simp] theorem loByte_be16 (hi lo : Byte) : loByte (be16 hi lo) = lo := by
  apply BitVec.eq_of_getLsbD_eq
  intro i h
  simp only [be16, loByte, BitVec.getLsbD_extractLsb', BitVec.getLsbD_append, h, decide_true, Bool.true_and]
  simp [h]

/-- The value of a word assembled from two bytes: `byte[a]*256 + byte[a+1]` (R60). -/
theorem be16_toNat (hi lo : Byte) : (be16 hi lo).toNat = 256 * hi.toNat + lo.toNat := by
  have h := lo.isLt
  simp only [be16, BitVec.toNat_append]
  rw [← Nat.shiftLeft_add_eq_or_of_lt h, Nat.shiftLeft_eq]
  omega

/-- The word at index `k` of words given by index. -/
@[simp] theorem Fields.get_ofFn (g : Fin 15 → Word) (k : Fin 15) : (Fields.ofFn g).get k = g k := by
  fin_cases k <;> rfl

/-- Words are equal when they agree at every index. -/
theorem Fields.ext_get {f f' : Fields} (h : ∀ k, f.get k = f'.get k) : f = f' := by
  cases f
  cases f'
  simp only [Fields.mk.injEq]
  exact ⟨h 0, h 1, h 2, h 3, h 4, h 5, h 6, h 7, h 8, h 9, h 10, h 11, h 12, h 13, h 14⟩

/-- The sum of bytes one after another is the sum of their sums. -/
theorem sum16_append (xs ys : List Byte) : sum16 (xs ++ ys) = sum16 xs + sum16 ys := by
  induction xs with
  | nil => simp [sum16]
  | cons b xs ih => simp [sum16, ih, BitVec.add_assoc]

/-- The inbound decoder answers `DATA` with the words of the frame, or rejects it by name (30_encoding R103). -/
theorem decode_inbound_cases (bs : List Byte) :
    (decode .sensorToHost bs = .ok (.data (fieldsOf bs)) (bs.drop Config.frameLen)
        ∧ Config.frameLen ≤ bs.length ∧ bs.getD 0 0 = Config.start0 ∧ bs.getD 1 0 = Config.start1)
      ∨ (decode .sensorToHost bs = .rejected (.badStart (wordAt bs 0))
        ∧ ¬(bs.getD 0 0 = Config.start0 ∧ bs.getD 1 0 = Config.start1))
      ∨ (decode .sensorToHost bs = .rejected (.short bs.length) ∧ bs.length < Config.frameLen) := by
  simp only [decode, decodeData]
  by_cases hl : bs.length < Config.frameLen
  · exact .inr (.inr ⟨if_pos hl, hl⟩)
  · by_cases hs : bs.getD 0 0 = Config.start0 ∧ bs.getD 1 0 = Config.start1
    · exact .inl ⟨by rw [if_neg hl, if_pos hs], Nat.le_of_not_lt hl, hs.1, hs.2⟩
    · exact .inr (.inl ⟨by rw [if_neg hl, if_neg hs], hs⟩)

/-- The covered bytes of a data frame are thirty, of which the payload is twenty-eight (20_memory R69). -/
theorem payloadBytes_length (ws : Fields) : (payloadBytes ws).length = Config.payloadLen := rfl

theorem coveredBytes_length (ws : Fields) : (coveredBytes ws).length = Config.rxChkCover := rfl

end Sys2Proof
end

