-- ==== Sys2Proof/Laws/Ops.lean ====
section
/-! SUPPORT. One lemma per shared operation: everything it can do when it answers. Later proofs cite these instead of
unfolding the operation. -/

namespace Sys2Proof.Machine

/-- A next state of a sequence comes from a next state of its first part. -/
theorem andThen_next {o : Host.Outcome State Fault Refusal} {k : State → Host.Outcome State Fault Refusal} {t : State}
    (h : andThen o k = .next t) : ∃ s, o = .next s ∧ k s = .next t := by
  cases o with
  | next s => exact ⟨s, rfl, h⟩
  | fault r => cases h
  | refused r => cases h

@[simp] theorem andThen_next_left (s : State) (k : State → Host.Outcome State Fault Refusal) :
    andThen (.next s) k = k s := rfl

/-- `raise` writes the output list and history of one unit and nothing else (60_exceptions R231). -/
theorem raise_cases (e : Exception) (s : State) :
    raise e s = mapRx (emitRx (.raised e)) s ∨ raise e s = mapTx (emitTx (.raised e)) s := by
  cases e with
  | framingError got => exact .inl rfl
  | transportReadError count => exact .inl rfl
  | commandWriteError count => exact .inr rfl

@[simp] theorem raisedName_nil : raisedName [] = .none := rfl
@[simp] theorem raisedName_raised (e : Exception) (es : List OutEvent) :
    raisedName (.raised e :: es) = exceptionName e := rfl
@[simp] theorem raisedName_txByte (b : Byte) (es : List OutEvent) : raisedName (.txByte b :: es) = raisedName es := rfl
@[simp] theorem raisedName_cmdDone (es : List OutEvent) : raisedName (.cmdDone :: es) = raisedName es := rfl
@[simp] theorem raisedName_frameDone (es : List OutEvent) : raisedName (.frameDone :: es) = raisedName es := rfl
@[simp] theorem raisedCount_nil : raisedCount [] = 0 := rfl
@[simp] theorem raisedCount_raised (e : Exception) (es : List OutEvent) :
    raisedCount (.raised e :: es) = raisedCount es + 1 := rfl
@[simp] theorem raisedCount_txByte (b : Byte) (es : List OutEvent) : raisedCount (.txByte b :: es) = raisedCount es := rfl
@[simp] theorem raisedCount_cmdDone (es : List OutEvent) : raisedCount (.cmdDone :: es) = raisedCount es := rfl
@[simp] theorem raisedCount_frameDone (es : List OutEvent) : raisedCount (.frameDone :: es) = raisedCount es := rfl

/-- A command request waits while the encoder is busy and starts the command otherwise (R45, R135). -/
theorem requestCommand_cases {sel : BitVec 2} {s t : State} (h : requestCommand sel s = .next t) :
    (s.tx.busy = true ∧ t = s) ∨ (s.tx.busy = false ∧ t = mapTx (startCommand sel) s) := by
  unfold requestCommand at h
  cases hb : s.tx.busy <;> simp [hb] at h <;> simp [h]

/-- A select code runs the command request of that code (30_encoding R101). -/
theorem exec_decodeSelect (sel : BitVec 2) (s : State) : exec (decodeSelect sel) s = requestCommand sel s := by
  have h : sel = 0 ∨ sel = 1 ∨ sel = 2 ∨ sel = 3 := by revert sel; decide
  rcases h with rfl | rfl | rfl | rfl <;> rfl

/-- Every instruction answers a next state that differs in one unit at most (10_state R22). -/
theorem exec_cases (i : Instr) (s : State) :
    (∃ ws, i = .data ws ∧
        exec i s = .next (mapRx (fun u => emitRx .frameDone (loadReading ws (checksumFlag ws) u)) s))
      ∨ (∃ sel, selectOf i = some sel ∧ s.tx.busy = true ∧ exec i s = .next s)
      ∨ (∃ sel, selectOf i = some sel ∧ s.tx.busy = false ∧ exec i s = .next (mapTx (startCommand sel) s)) := by
  have cmd : ∀ sel, (s.tx.busy = true ∧ requestCommand sel s = .next s)
      ∨ (s.tx.busy = false ∧ requestCommand sel s = .next (mapTx (startCommand sel) s)) := fun sel => by
    unfold requestCommand
    cases s.tx.busy <;> simp
  cases i with
  | setPassive => exact .inr ((cmd 0).imp (fun h => ⟨0, rfl, h⟩) fun h => ⟨0, rfl, h⟩)
  | setActive => exact .inr ((cmd 1).imp (fun h => ⟨1, rfl, h⟩) fun h => ⟨1, rfl, h⟩)
  | sleep => exact .inr ((cmd 2).imp (fun h => ⟨2, rfl, h⟩) fun h => ⟨2, rfl, h⟩)
  | wake => exact .inr ((cmd 3).imp (fun h => ⟨3, rfl, h⟩) fun h => ⟨3, rfl, h⟩)
  | data ws => exact .inl ⟨ws, rfl, rfl⟩

/-- What a received byte can do (R160, R163, R165): it is stored and the counter advances; at offset 31 the frame becomes
a reading or is discarded with a framing error. -/
theorem rxByte_cases (b : Byte) (s : State) :
    (s.rx.cnt ≠ 31 ∧ rxByte b s = .next (mapRx (fun u => setRxCnt (u.cnt + 1) (memWrite1 u.cnt b u)) s))
      ∨ (∃ ws rest, s.rx.cnt = 31 ∧ decode .sensorToHost (receivedFrame b s.rx) = .ok (.data ws) rest
          ∧ rxByte b s = .next (mapRx (fun u => emitRx .frameDone
              (loadReading ws (checksumFlag ws) (setRxCnt 0 (memWrite1 u.cnt b u)))) s))
      ∨ (∃ why, s.rx.cnt = 31 ∧ decode .sensorToHost (receivedFrame b s.rx) = .rejected why
          ∧ rxByte b s = .next (mapRx (fun u => emitRx (.raised (.framingError (wordAt (receivedFrame b s.rx) 0)))
              (setRxCnt 0 (memWrite1 u.cnt b u))) s)) := by
  by_cases hc : s.rx.cnt = 31
  · refine .inr ?_
    rcases decode_inbound_cases (receivedFrame b s.rx) with ⟨hd, -⟩ | ⟨hd, -⟩ | ⟨hd, -⟩
    · refine .inl ⟨_, _, hc, hd, ?_⟩
      simp only [rxByte, if_pos hc, frameComplete, hd]
      rfl
    · refine .inr ⟨_, hc, hd, ?_⟩
      simp only [rxByte, if_pos hc, frameComplete, hd]
      rfl
    · refine .inr ⟨_, hc, hd, ?_⟩
      simp only [rxByte, if_pos hc, frameComplete, hd]
      rfl
  · exact .inl ⟨hc, by simp only [rxByte, if_neg hc]⟩

/-- What an acceptance can do (R136). -/
theorem txAccept_cases (s : State) :
    (s.tx.busy = false ∧ txAccept s = s)
      ∨ (s.tx.busy = true ∧ s.tx.cnt = 6 ∧ txAccept s =
          mapTx (fun u => emitTx .cmdDone (endCommand (emitTx (.txByte (currentCmdByte u)) u))) s)
      ∨ (s.tx.busy = true ∧ s.tx.cnt ≠ 6 ∧ txAccept s =
          mapTx (fun u => setTxCnt (u.cnt + 1) (emitTx (.txByte (currentCmdByte u)) u)) s) := by
  unfold txAccept
  cases hb : s.tx.busy
  · exact .inl ⟨rfl, by simp⟩
  · by_cases hc : s.tx.cnt = 6
    · exact .inr (.inl ⟨rfl, hc, by simp [hc]⟩)
    · exact .inr (.inr ⟨rfl, hc, by rw [if_pos rfl, if_neg hc]⟩)

/-- What a write failure can do (R137, 10_state R47). -/
theorem txAbort_cases (s : State) :
    (s.tx.busy = false ∧ txAbort s = s)
      ∨ (s.tx.busy = true ∧ txAbort s =
          mapTx (fun u => endCommand (emitTx (.raised (.commandWriteError s.tx.cnt)) u)) s) := by
  unfold txAbort
  cases hb : s.tx.busy
  · exact .inl ⟨rfl, by simp⟩
  · exact .inr ⟨rfl, by simp; rfl⟩

/-- A read failure (R167). -/
theorem rxAbort_eq (s : State) :
    rxAbort s = mapRx (fun u => setRxCnt 0 (emitRx (.raised (.transportReadError s.rx.cnt)) u)) s := rfl

/-- What the RX event of an edge can do (10_state R44): nothing, a read failure, a stored byte, a reading, or a framing
error. -/
theorem rxEvent_cases {p : Ports} {s t : State} (h : handleOpt (rxEventOf p) s = .next t) :
    t = s
      ∨ t = mapRx (fun u => setRxCnt 0 (emitRx (.raised (.transportReadError s.rx.cnt)) u)) s
      ∨ (s.rx.cnt ≠ 31 ∧ t = mapRx (fun u => setRxCnt (u.cnt + 1) (memWrite1 u.cnt p.rxData u)) s)
      ∨ (∃ ws rest, s.rx.cnt = 31 ∧ decode .sensorToHost (receivedFrame p.rxData s.rx) = .ok (.data ws) rest
          ∧ t = mapRx (fun u => emitRx .frameDone
              (loadReading ws (checksumFlag ws) (setRxCnt 0 (memWrite1 u.cnt p.rxData u)))) s)
      ∨ (∃ why, s.rx.cnt = 31 ∧ decode .sensorToHost (receivedFrame p.rxData s.rx) = .rejected why
          ∧ t = mapRx (fun u => emitRx (.raised (.framingError (wordAt (receivedFrame p.rxData s.rx) 0)))
              (setRxCnt 0 (memWrite1 u.cnt p.rxData u))) s) := by
  revert h
  unfold rxEventOf
  split
  · intro h; cases h; exact .inr (.inl rfl)
  · split
    · intro h
      simp only [handleOpt, handle] at h
      rcases rxByte_cases p.rxData s with ⟨hc, e⟩ | ⟨ws, rest, hc, hd, e⟩ | ⟨why, hc, hd, e⟩ <;> rw [e] at h <;> cases h
      · exact .inr (.inr (.inl ⟨hc, rfl⟩))
      · exact .inr (.inr (.inr (.inl ⟨ws, rest, hc, hd, rfl⟩)))
      · exact .inr (.inr (.inr (.inr ⟨why, hc, hd, rfl⟩)))
    · intro h; cases h; exact .inl rfl

/-- The RX event of an edge changes the RX unit alone (10_state R22). -/
theorem rxEvent_frame {p : Ports} {s t : State} (h : handleOpt (rxEventOf p) s = .next t) :
    t.tx = s.tx ∧ t.host = s.host ∧ t.inputs = s.inputs := by
  rcases rxEvent_cases h with rfl | rfl | ⟨-, rfl⟩ | ⟨_, _, -, -, rfl⟩ | ⟨_, -, -, rfl⟩ <;> exact ⟨rfl, rfl, rfl⟩

/-- What the TX event of an edge can do (10_state R44): nothing, an accepted request, an accepted byte, or a write
failure. -/
theorem txEvent_cases {p : Ports} {s t : State} {busy : Bool} (hb : s.tx.busy = busy)
    (h : handleOpt (txEventOf p busy) s = .next t) :
    (t = s ∧ (busy = false → p.cmdValid = false))
      ∨ (busy = false ∧ p.cmdValid = true ∧ t = mapTx (startCommand p.cmdSel) s)
      ∨ (busy = true ∧ s.tx.cnt = 6 ∧
          t = mapTx (fun u => emitTx .cmdDone (endCommand (emitTx (.txByte (currentCmdByte u)) u))) s)
      ∨ (busy = true ∧ s.tx.cnt ≠ 6 ∧
          t = mapTx (fun u => setTxCnt (u.cnt + 1) (emitTx (.txByte (currentCmdByte u)) u)) s)
      ∨ (busy = true ∧ t = mapTx (fun u => endCommand (emitTx (.raised (.commandWriteError s.tx.cnt)) u)) s) := by
  revert h
  unfold txEventOf
  cases busy
  · simp only [Bool.false_eq_true, if_false]
    split
    · next hv =>
      intro h
      simp only [handleOpt, handle, exec_decodeSelect] at h
      rcases requestCommand_cases h with ⟨h, -⟩ | ⟨-, h⟩
      · simp [hb] at h
      · exact .inr (.inl ⟨trivial, hv, h⟩)
    · next hv => intro h; cases h; exact .inl ⟨rfl, fun _ => by simpa using hv⟩
  · simp only [if_true]
    split
    · intro h; cases h
      rcases txAbort_cases s with ⟨h, -⟩ | ⟨-, h⟩
      · simp [hb] at h
      · exact .inr (.inr (.inr (.inr ⟨trivial, h⟩)))
    · split
      · intro h; cases h
        rcases txAccept_cases s with ⟨h, -⟩ | ⟨-, hc, h⟩ | ⟨-, hc, h⟩
        · simp [hb] at h
        · exact .inr (.inr (.inl ⟨trivial, hc, h⟩))
        · exact .inr (.inr (.inr (.inl ⟨trivial, hc, h⟩)))
      · intro h; cases h; exact .inl ⟨rfl, by simp⟩

/-- The TX event of an edge changes the TX unit alone (10_state R22). -/
theorem txEvent_frame {p : Ports} {s t : State} {busy : Bool} (hb : s.tx.busy = busy)
    (h : handleOpt (txEventOf p busy) s = .next t) : t.rx = s.rx ∧ t.host = s.host ∧ t.inputs = s.inputs := by
  rcases txEvent_cases hb h with ⟨rfl, -⟩ | ⟨-, -, rfl⟩ | ⟨-, -, rfl⟩ | ⟨-, -, rfl⟩ | ⟨-, rfl⟩ <;> exact ⟨rfl, rfl, rfl⟩

/-- What a clock edge can do: a reset, a refusal for two drivers, or the events of both units and then the host. -/
theorem clockEdge_next {p : Ports} {s t : State} (h : clockEdge p s = .next t) :
    (p.rst = true ∧ t = resetEvent s)
      ∨ (p.rst = false ∧ portConflict p s.host = false ∧ ∃ s1 s2,
          handleOpt (rxEventOf (drivenPorts p s.host)) (clearStrobes s) = .next s1
            ∧ handleOpt (txEventOf (drivenPorts p s.host) s.tx.busy) s1 = .next s2
            ∧ t = mapHost (hostObserve s.tx.busy (outPorts s2)) s2) := by
  unfold clockEdge at h
  cases hr : p.rst
  · cases hc : portConflict p s.host
    · simp only [hr, hc, Bool.false_eq_true, if_false] at h
      obtain ⟨s2, h2, ht⟩ := andThen_next h
      obtain ⟨s1, h1, h2⟩ := andThen_next h2
      simp only [finishEdge, Host.Outcome.next.injEq] at ht
      exact .inr ⟨rfl, rfl, s1, s2, h1, h2, ht.symm⟩
    · simp [hr, hc] at h
  · simp only [hr, if_true, handle, Host.Outcome.next.injEq] at h
    exact .inl ⟨rfl, h.symm⟩

/-- A host call changes the host alone (42_host_session R207, R208: no block event). -/
theorem hostCall_next {c : HostCall} {s t : State} (h : hostCall c s = .next t) : t = { s with host := t.host } := by
  unfold hostCall at h
  cases hs : s.host.session <;> simp only [hs] at h
  case closed => cases h; rfl
  all_goals
    split at h
    · cases h
    · cases c <;> simp at h <;> subst h <;> rfl

/-- A host look before `close` notes what it shows and does nothing else (20_memory R68). -/
theorem hostLook_open (l : Look) {s : State} (h : s.host.session ≠ .closed) :
    hostLook l s = .next (mapHost (recordSeen (lookAt l s)) s) := if_neg h

/-- A host look changes what the host has seen and nothing else (20_memory R68). -/
theorem hostLook_next {l : Look} {s t : State} (h : hostLook l s = .next t) :
    t = mapHost (recordSeen (lookAt l s)) s := by
  unfold hostLook at h
  split at h <;> cases h
  rfl

/-- A read of `F` with a reading there copies it (R209). -/
theorem readOfF_present {s : State} (h : s.rx.present = true) : readOfF s = .copied s.rx.f s.rx.chkValid := if_pos h

/-- A read of `F` before the first reading gives no value (60_exceptions R243, 10_state R27). -/
theorem readOfF_absent {s : State} (h : s.rx.present = false) : readOfF s = .readRefused := by
  simp [readOfF, outPorts, h]

/-- Until `close`, a host read of `F` goes on (R207, 70 R288). -/
theorem hostReadF_open {s : State} (h : s.host.session ≠ .closed) :
    hostReadF s = .next (mapHost (recordSeen (readOfF s)) s) := if_neg h

/-- A host read of `F` changes what the host has seen and nothing else (R209). -/
theorem hostReadF_next {s t : State} (h : hostReadF s = .next t) : t = mapHost (recordSeen (readOfF s)) s := by
  unfold hostReadF at h
  split at h <;> cases h
  rfl

/-- What a step can do: a clock edge, a host call, a host look or a host read of `F`, with the stimulus taken off the list. -/
theorem step_next {s t : State} (h : step s = .next t) :
    (∃ p, nextStimulus s = .edge p ∧ clockEdge p (takeStimulus s) = .next t)
      ∨ (∃ c, nextStimulus s = .call c ∧ hostCall c (takeStimulus s) = .next t)
      ∨ (∃ l, nextStimulus s = .look l ∧ hostLook l (takeStimulus s) = .next t)
      ∨ (nextStimulus s = .readF ∧ hostReadF (takeStimulus s) = .next t) := by
  unfold step at h
  cases hx : nextStimulus s with
  | edge p => exact .inl ⟨p, rfl, by simpa [hx, perform] using h⟩
  | call c => exact .inr (.inl ⟨c, rfl, by simpa [hx, perform] using h⟩)
  | look l => exact .inr (.inr (.inl ⟨l, rfl, by simpa [hx, perform] using h⟩))
  | readF => exact .inr (.inr (.inr ⟨rfl, by simpa [hx, perform] using h⟩))

end Sys2Proof.Machine
end

