-- ==== Sys2Proof/Laws/PerInstr.lean ====
section
/-! SUPPORT. Per instruction: its encoding is a frame of the protocol by the field tables of 30_encoding R91 and R92, which
WellFormed.lean states without the decoder and without modular sums. -/

namespace Sys2Proof.Laws.EncodeWellFormed

/-- The encoding of `i` is a well-formed frame of its direction. -/
def Statement (i : Instr) : Prop := Frame.wellFormed i.direction (encode i) = true

theorem setPassive : Statement .setPassive := by unfold Statement; decide

theorem setActive : Statement .setActive := by unfold Statement; decide

theorem sleep : Statement .sleep := by unfold Statement; decide

theorem wake : Statement .wake := by unfold Statement; decide

theorem data (ws : Fields) : Statement (.data ws) := by
  simp [Statement, Instr.direction, encode, coveredBytes, payloadBytes, wordBytes, Frame.wellFormed, Frame.dataOk,
    Frame.startOk, Config.frameLen]

end Sys2Proof.Laws.EncodeWellFormed
end

