-- ==== Sys2Proof/Tests/Slice0.lean ====
section
/-! SUPPORT. Tests. Expected results come from spec/95_test_vectors.md and from the field tables of 30_encoding, never from
the model. The last part shows for each statement a concrete case that meets its hypotheses. -/

namespace Sys2Proof.Tests

open Sys2Proof Sys2Proof.Machine

/-! ### Helpers -/

/-- The next state of an outcome, if it has one. -/
def nextOf (o : Host.Outcome State Fault Refusal) : Option State :=
  match o with
  | .next t => some t
  | .fault _ => none
  | .refused _ => none

/-- The refusal of an outcome, if it is one. -/
def refusalOf (o : Host.Outcome State Fault Refusal) : Option Refusal :=
  match o with
  | .next _ => none
  | .fault _ => none
  | .refused r => some r

/-- The scenario frame of the source (95 S1). -/
def frameS1 : Frame :=
  [0x42, 0x4D, 0x00, 0x1C, 0x00, 0x05, 0x00, 0x0A, 0x00, 0x0F, 0x00, 0x05, 0x00, 0x0A, 0x00, 0x0F]
    ++ [0x00, 0x01, 0x00, 0x02, 0x00, 0x03, 0x00, 0x04, 0x00, 0x05, 0x00, 0x06, 0x00, 0x00, 0x00, 0xC6]

/-- Frame X5: distinct bytes with a right checksum. -/
def frameX5 : Frame :=
  [0x42, 0x4D, 0x01, 0x02, 0x03, 0x04, 0x05, 0x06, 0x07, 0x08, 0x09, 0x0A, 0x0B, 0x0C, 0x0D, 0x0E]
    ++ [0x0F, 0x10, 0x11, 0x12, 0x13, 0x14, 0x15, 0x16, 0x17, 0x18, 0x19, 0x1A, 0x1B, 0x1C, 0x02, 0x25]

/-- The words of X5, as 95 lists them. -/
def wordsX5 : Fields :=
  ⟨0x0102, 0x0304, 0x0506, 0x0708, 0x090A, 0x0B0C, 0x0D0E, 0x0F10, 0x1112, 0x1314, 0x1516, 0x1718, 0x191A, 0x1B1C, 0x0225⟩

/-- Reset state, but the encoder is `n` bytes into the command `sel`. -/
def sendingState (sel : BitVec 2) (n : BitVec 3) : State :=
  { State.reset with tx := { TxUnit.reset with busy := true, sel := sel, cnt := n } }

/-- Reset state, but 31 bytes of the frame have been received. -/
def lastByteState (bs : Frame) : State :=
  { State.reset with rx := { RxUnit.reset with cnt := 31, buf := listedFrom 0 (bs.take 31) } }

/-- Reset state with a session in the given state and a task. -/
def hostState (x : Session) (t : HostTask) : State :=
  { State.reset with host := { HostAgent.reset with session := x, task := t } }

/-! ### WellFormed: one ill-formed term for each check -/

theorem test_wf_command : Frame.wellFormed .hostToSensor [0x42, 0x4D, 0xE4, 0x00, 0x01, 0x01, 0x74] = true := by decide
theorem test_wf_command_length : Frame.wellFormed .hostToSensor [0x42, 0x4D, 0xE4, 0x00, 0x01, 0x01] = false := by decide
theorem test_wf_command_start0 : Frame.wellFormed .hostToSensor [0x43, 0x4D, 0xE4, 0x00, 0x01, 0x01, 0x75] = false := by
  decide
theorem test_wf_command_start1 : Frame.wellFormed .hostToSensor [0x42, 0x4C, 0xE4, 0x00, 0x01, 0x01, 0x73] = false := by
  decide
/-- 0xE2, the poll command of 93 G5, is deliberately absent. -/
theorem test_wf_command_id : Frame.wellFormed .hostToSensor [0x42, 0x4D, 0xE2, 0x00, 0x00, 0x01, 0x71] = false := by decide
theorem test_wf_command_zero : Frame.wellFormed .hostToSensor [0x42, 0x4D, 0xE4, 0x01, 0x00, 0x01, 0x74] = false := by decide
theorem test_wf_command_value : Frame.wellFormed .hostToSensor [0x42, 0x4D, 0xE4, 0x00, 0x02, 0x01, 0x75] = false := by
  decide
theorem test_wf_command_checksum : Frame.wellFormed .hostToSensor [0x42, 0x4D, 0xE1, 0x00, 0x01, 0x01, 0x72] = false := by
  decide
theorem test_wf_data : Frame.wellFormed .sensorToHost frameS1 = true := by decide
theorem test_wf_data_length : Frame.wellFormed .sensorToHost (frameS1.take 31) = false := by decide
theorem test_wf_data_start0 : Frame.wellFormed .sensorToHost (0x43 :: frameS1.drop 1) = false := by decide
theorem test_wf_data_start1 : Frame.wellFormed .sensorToHost (0x42 :: 0x4C :: frameS1.drop 2) = false := by decide

/-! ### Decoding, byte by byte from 30_encoding R100 and R92 -/

theorem test_decode_set_passive :
    decode .hostToSensor [0x42, 0x4D, 0xE1, 0x00, 0x00, 0x01, 0x70] = .ok .setPassive [] := by decide
theorem test_decode_set_active :
    decode .hostToSensor [0x42, 0x4D, 0xE1, 0x00, 0x01, 0x01, 0x71] = .ok .setActive [] := by decide
theorem test_decode_sleep : decode .hostToSensor [0x42, 0x4D, 0xE4, 0x00, 0x00, 0x01, 0x73] = .ok .sleep [] := by decide
theorem test_decode_wake : decode .hostToSensor [0x42, 0x4D, 0xE4, 0x00, 0x01, 0x01, 0x74] = .ok .wake [] := by decide
theorem test_decode_data : decode .sensorToHost frameX5 = .ok (.data wordsX5) [] := by decide

/-- The source's literals for set-active and set-passive are wrong (90 C2, C3). -/
theorem test_reject_wrong_literals :
    decode .hostToSensor [0x42, 0x4D, 0xE1, 0x00, 0x01, 0x01, 0x72] = .rejected .notACommand
      ∧ decode .hostToSensor [0x42, 0x4D, 0xE1, 0x00, 0x01, 0x00, 0x71] = .rejected .notACommand := by decide
theorem test_reject_short :
    decode .hostToSensor [0x42, 0x4D] = .rejected (.short 2)
      ∧ decode .sensorToHost (frameS1.take 31) = .rejected (.short 31) := by decide
/-- X9: swapped start bytes. -/
theorem test_reject_bad_start : decode .sensorToHost (0x4D :: 0x42 :: frameS1.drop 2) = .rejected (.badStart 0x4D42) := by
  decide
theorem test_reject_width : decodeTableWord 48 0x424DE1000001 = none := by decide

/-! ### The encoder on the words of R100 and R172 -/

theorem test_encode_commands :
    encode .setPassive = [0x42, 0x4D, 0xE1, 0x00, 0x00, 0x01, 0x70]
      ∧ encode .setActive = [0x42, 0x4D, 0xE1, 0x00, 0x01, 0x01, 0x71]
      ∧ encode .sleep = [0x42, 0x4D, 0xE4, 0x00, 0x00, 0x01, 0x73]
      ∧ encode .wake = [0x42, 0x4D, 0xE4, 0x00, 0x01, 0x01, 0x74] := by decide
theorem test_encode_data : encode (.data wordsX5) = frameX5 := by decide

/-! ### Single steps of the instructions -/

/-- What the encoder offers after one step from reset with the pattern placed. -/
def offered (w : Nat) : Option (Bool × BitVec 2 × BitVec 3 × Byte) :=
  (nextOf (step (State.reset.withFetchWord 56 w))).map
    fun t => (t.tx.busy, t.tx.sel, t.tx.cnt, (outPorts t).txData)

/-- The output events of one acceptance `n` bytes into a command, and whether the encoder still sends. -/
def acceptedAt (sel : BitVec 2) (n : BitVec 3) : Option (List OutEvent × Bool) :=
  (nextOf (clockEdge { Ports.quiet with txReady := true } (sendingState sel n))).map fun t => (t.tx.out, t.tx.busy)

/-- R140, T1: select code 0, first byte 0x42. -/
theorem test_set_passive_starts : offered 0x424DE100000170 = some (true, 0, 0, 0x42) := by decide
/-- T1: the seventh byte is 0x70, then `CmdDone`. -/
theorem test_set_passive_ends : acceptedAt 0 6 = some ([.txByte 0x70, .cmdDone], false) := by decide
theorem test_set_active_starts : offered 0x424DE100010171 = some (true, 1, 0, 0x42) := by decide
/-- T2. -/
theorem test_set_active_ends : acceptedAt 1 6 = some ([.txByte 0x71, .cmdDone], false) := by decide
theorem test_sleep_starts : offered 0x424DE400000173 = some (true, 2, 0, 0x42) := by decide
/-- T3: the third byte is 0xE4. -/
theorem test_sleep_middle : acceptedAt 2 2 = some ([.txByte 0xE4], true) := by decide
theorem test_wake_starts : offered 0x424DE400010174 = some (true, 3, 0, 0x42) := by decide
/-- T4: the fifth byte is 0x01. -/
theorem test_wake_middle : acceptedAt 3 4 = some ([.txByte 0x01], true) := by decide

/-- What the reading shows after one step from reset with a data pattern placed. -/
def shown (w : Nat) : Option (List OutEvent × Fields × Bool × Bool × BitVec 5) :=
  (nextOf (step (State.reset.withFetchWord 256 w))).map
    fun t => (t.rx.out, t.rx.f, t.rx.chkValid, t.rx.present, t.rx.cnt)

/-- S1: the source's scenario, checksum wrong, the reading is produced all the same. -/
theorem test_data_s1 :
    shown 0x424D001C0005000A000F0005000A000F000100020003000400050006000000C6
      = some ([.frameDone], ⟨28, 5, 10, 15, 5, 10, 15, 1, 2, 3, 4, 5, 6, 0, 0x00C6⟩, false, true, 0) := by decide
/-- X1: the same frame with the right checksum. -/
theorem test_data_x1 :
    shown 0x424D001C0005000A000F0005000A000F000100020003000400050006000000FC
      = some ([.frameDone], ⟨28, 5, 10, 15, 5, 10, 15, 1, 2, 3, 4, 5, 6, 0, 0x00FC⟩, true, true, 0) := by decide

/-! ### The events that are no instruction -/

/-- `tx_data` inside a command (R42; bytes 3 and 7 of `SLEEP` from R100) and while idle. -/
theorem test_tx_data :
    (outPorts (sendingState 2 2)).txData = 0xE4 ∧ (outPorts (sendingState 2 6)).txData = 0x73
      ∧ (outPorts State.reset).txData = 0x00 := by decide
/-- R101, R203: `initialize(Active)` requests select code 1, `initialize(Passive)` 0. -/
theorem test_initialize_requests_its_mode :
    (nextOf (hostCall (.initializeSession .active) State.reset)).map (fun t => hostRequest t.host) = some (some 1)
      ∧ (nextOf (hostCall (.initializeSession .passive) State.reset)).map (fun t => hostRequest t.host)
        = some (some 0) := by decide

/-- X7: a wrong first byte; the right checksum does not save the frame. -/
theorem test_framing_error :
    shown 0x434D001C0005000A000F0005000A000F000100020003000400050006000000FD
      = some ([.raised (.framingError 0x434D)], Fields.zero, false, false, 0) := by decide
/-- X17: at the last byte an abort wins. -/
theorem test_abort_beats_byte :
    (nextOf (clockEdge { Ports.quiet with rxValid := true, rxData := 0xC6, rxAbort := true } (lastByteState frameS1))).map
        (fun t => (t.rx.out, t.rx.cnt, t.rx.present))
      = some ([.raised (.transportReadError 31)], 0, false) := by decide
/-- T9: a write failure beats the seventh acceptance. -/
theorem test_abort_beats_accept :
    (nextOf (clockEdge { Ports.quiet with txReady := true, txAbort := true } (sendingState 1 6))).map
        (fun t => (t.tx.out, t.tx.busy, t.tx.sel, t.tx.cnt))
      = some ([.raised (.commandWriteError 6)], false, 1, 0) := by decide
/-- T10: a write failure while idle is ignored. -/
theorem test_abort_while_idle :
    nextOf (clockEdge { Ports.quiet with txAbort := true } State.reset) = some State.reset := by decide
/-- Z3: at a reset edge no other input counts, and no event is emitted. -/
theorem test_reset_beats_all :
    (nextOf (clockEdge ⟨true, true, 0x42, true, true, 3, true, true⟩ (sendingState 1 2))).map
        (fun t => (t.rx.out, t.tx, t.rx.cnt, t.rx.present))
      = some ([], { TxUnit.reset with log := [.reset] }, 0, false) := by decide
/-- The numeric codes of 60_exceptions R230. -/
theorem test_exception_codes :
    exceptionCode (.framingError 0) = 1 ∧ exceptionCode (.transportReadError 0) = 2
      ∧ exceptionCode (.commandWriteError 0) = 3 ∧ hostErrorCode .sessionClosedError = 4
      ∧ hostErrorCode .transportOpenError = 5 := by decide
/-- R230, code 0: no exception at an edge that completes a reading, code 1 at one with a framing error. -/
theorem test_exception_code_none :
    (nextOf (clockEdge { Ports.quiet with rxValid := true, rxData := 0x25 } (lastByteState frameX5))).map
        (fun t => exceptionNumber (raisedName t.rx.out)) = some 0
      ∧ (nextOf (clockEdge { Ports.quiet with rxValid := true } (lastByteState (List.replicate 31 0)))).map
        (fun t => exceptionNumber (raisedName t.rx.out)) = some 1 := by decide
/-- P4: `read` after `close`. -/
theorem test_read_after_close :
    (nextOf (hostCall .read (hostState .closed .idle))).map (fun t => (t.host.returns, t.host.session))
      = some ([⟨.read, .error .sessionClosedError⟩], .closed) := by decide
/-- R201: `read` in `Created` is no move of the lawful host. -/
theorem test_read_before_initialize :
    refusalOf (hostCall .read (hostState .created .idle)) = some (.noMove .read .created) := by decide
/-- 10_state R27, R209: a look at `F[5]` before the first reading goes on and gives no value, not zero. -/
theorem test_look_before_reading :
    (nextOf (hostLook (.field 5) State.reset)).map (fun t => (t.host.seen, t.rx)) = some ([.noReading 5], RxUnit.reset) := by
  decide
/-- 60_exceptions R243, 10_state R27: a host read of `F` before the first reading is refused, gives no value, and the machine
goes on. -/
theorem test_read_of_f_before_reading :
    (nextOf (hostReadF State.reset)).map (fun t => (t.host.seen, t.rx)) = some ([.readRefused], RxUnit.reset) := by decide
/-- 93 U7: two drivers of the command port. -/
theorem test_two_drivers :
    refusalOf (clockEdge { Ports.quiet with cmdValid := true } (hostState .ready (.command .sleep .requesting)))
      = some .twoDrivers := by decide

/-! ### Hypotheses that can be met: one case for each statement, and for each of its clauses -/

theorem witness_decoded_bytes_are_the_encoding :
    decode .hostToSensor [0x42, 0x4D, 0xE4, 0x00, 0x01, 0x01, 0x74, 0x99] = .ok .wake [0x99]
      ∧ decode .sensorToHost (frameX5 ++ [0x42]) = .ok (.data wordsX5) [0x42] := by decide
theorem witness_decoder_accepts_exactly_the_frames :
    [0x42, 0x4D, 0xE1, 0x00, 0x01, 0x01, (0x72 : Byte)].length = frameLength .hostToSensor
      ∧ frameX5.length = frameLength .sensorToHost := by decide
theorem witness_checksum_sums_never_wrap :
    (List.replicate 257 (0xFF : Byte)).length ≤ 257 ∧ (List.replicate 30 (0xFF : Byte)).length = 30
      ∧ (List.replicate 5 (0xFF : Byte)).length = 5 :=
  ⟨(List.length_replicate).le, List.length_replicate, List.length_replicate⟩
theorem witness_command_request_starts :
    selectOf .setPassive = some 0 ∧ selectOf .setActive = some 1 ∧ selectOf .sleep = some 2 ∧ selectOf .wake = some 3
      ∧ State.reset.tx.busy = false := by decide
theorem witness_cmd_req_starts_encoder : State.reset.tx.busy = false := by decide
theorem witness_command_waits_while_busy : selectOf .wake = some 3 ∧ (sendingState 0 4).tx.busy = true := by decide
/-- Also meets the hypothesis of the statements about SET_ACTIVE, SLEEP and WAKE. -/
theorem witness_set_passive_emits_its_frame : State.reset.tx.busy = false ∧ (7 : Nat) - 1 < 7 := by decide
theorem witness_commands_leave_the_rest_unchanged :
    (∃ t, selectOf .sleep = some 2 ∧ exec .sleep State.reset = .next t)
      ∧ ∃ t, selectOf .wake = some 3 ∧ exec .wake (sendingState 0 6) = .next t :=
  ⟨⟨_, rfl, rfl⟩, ⟨_, rfl, rfl⟩⟩
theorem witness_tx_accept_emits_one_byte :
    (sendingState 2 6).tx.busy = true ∧ (sendingState 2 6).tx.cnt = 6
      ∧ (sendingState 2 5).tx.busy = true ∧ (sendingState 2 5).tx.cnt ≠ 6 ∧ State.reset.tx.busy = false := by decide
theorem witness_tx_abort_raises_command_write_error :
    ∃ p : Ports, p.rst = false ∧ portConflict p (sendingState 1 6).host = false ∧ p.txAbort = true ∧ p.txReady = true
      ∧ (sendingState 1 6).tx.busy = true ∧ State.reset.tx.busy = false :=
  ⟨{ Ports.quiet with txReady := true, txAbort := true }, by decide⟩
theorem witness_data_leaves_the_rest_unchanged : ∃ t, exec (.data wordsX5) (sendingState 1 2) = .next t := ⟨_, rfl⟩
theorem witness_rx_byte_stores_and_advances :
    State.reset.rx.cnt ≠ 31 ∧ { State.reset.rx with cnt := 30 }.cnt ≠ 31 := by decide
theorem witness_last_byte_of_frame_makes_reading :
    receivedFrame 0x25 (lastByteState frameX5).rx = frameX5 ∧ (lastByteState frameX5).rx.cnt = 31
      ∧ frameX5.getD 0 0 = 0x42 ∧ frameX5.getD 1 0 = 0x4D := by decide
theorem witness_framing_error_discards_frame :
    (lastByteState (0x43 :: frameS1.drop 1)).rx.cnt = 31
      ∧ ¬(memRead1 (lastByteState (0x43 :: frameS1.drop 1)).rx 0 = 0x42
        ∧ memRead1 (lastByteState (0x43 :: frameS1.drop 1)).rx 1 = 0x4D)
      ∧ ¬(memRead1 (lastByteState (0x42 :: 0x4C :: frameS1.drop 2)).rx 0 = 0x42
        ∧ memRead1 (lastByteState (0x42 :: 0x4C :: frameS1.drop 2)).rx 1 = 0x4D) := by decide
theorem witness_thirty_two_bytes_give_one_outcome :
    frameX5.length = 32 ∧ (List.replicate 32 (0 : Byte)).length = 32 ∧ State.reset.rx.cnt = 0
      ∧ Frame.startOk frameX5 = true ∧ Frame.startOk (List.replicate 32 0) = false := by decide
theorem witness_frame_of_words_round_trips : (sendingState 3 1).rx.cnt = 0 := by decide
theorem witness_reset_event_clears_the_block :
    (Ports.rst ⟨true, true, 0x42, true, true, 3, true, true⟩) = true := by decide
theorem witness_simultaneous_inputs_priority :
    (Ports.rst ⟨true, true, 0x42, true, true, 3, true, true⟩) = true
      ∧ (Ports.rxAbort ⟨false, true, 0x42, true, false, 0, true, true⟩) = true
      ∧ (Ports.txAbort ⟨false, true, 0x42, true, false, 0, true, true⟩) = true ∧ State.reset.tx.busy = false
      ∧ (Ports.rst ⟨false, true, 0x42, true, false, 0, true, true⟩) = false
      ∧ portConflict ⟨false, true, 0x42, true, false, 0, true, true⟩ (sendingState 1 6).host = false
      ∧ (sendingState 1 6).tx.busy = true := by decide
/-- One edge for each clause of both units: an abort, a byte, nothing; a failure, an acceptance, nothing; a request, none. -/
theorem witness_edge_follows_port_procedure :
    let abort : Ports := ⟨false, true, 0x42, true, true, 3, true, true⟩
    let go : Ports := ⟨false, true, 0x42, false, true, 3, true, false⟩
    abort.rst = false ∧ portConflict abort (sendingState 1 6).host = false ∧ abort.rxAbort = true
      ∧ (sendingState 1 6).tx.busy = true ∧ abort.txAbort = true
      ∧ go.rst = false ∧ portConflict go State.reset.host = false ∧ go.rxAbort = false ∧ go.rxValid = true
      ∧ go.txAbort = false ∧ go.txReady = true ∧ State.reset.tx.busy = false
      ∧ (drivenPorts go State.reset.host).cmdValid = true
      ∧ (drivenPorts Ports.quiet (hostState .ready (.command .sleep .requesting)).host).cmdValid = true
      ∧ Ports.quiet.rst = false ∧ portConflict Ports.quiet State.reset.host = false ∧ Ports.quiet.rxValid = false
      ∧ Ports.quiet.txReady = false ∧ (drivenPorts Ports.quiet State.reset.host).cmdValid = false := by decide
/-- An RX and a TX exception at the same edge (R233 (d)), and a reset edge. -/
theorem witness_edge_raises_at_most_one_per_unit :
    (∃ t, clockEdge ⟨false, true, 0x42, true, false, 0, true, true⟩ (sendingState 1 6) = .next t
        ∧ raisedCount t.rx.out = 1 ∧ raisedCount t.tx.out = 1)
      ∧ ∃ t, clockEdge ⟨true, true, 0x42, true, false, 0, true, true⟩ (sendingState 1 6) = .next t :=
  ⟨⟨_, rfl, by decide, by decide⟩, ⟨_, rfl⟩⟩
theorem witness_every_edge_steps_on :
    portConflict ⟨false, true, 0x42, true, true, 3, true, true⟩ State.reset.host = false
      ∧ portConflict Ports.quiet (hostState .ready (.command .sleep .requesting)).host = false := by decide
theorem witness_units_commute : isRxEvent (.rxByte 0x42) = true ∧ isTxEvent (.cmdReq 3) = true := by decide
theorem witness_events_write_their_unit_alone :
    (∃ t, handle .rxAbort (sendingState 1 2) = .next t ∧ isRxEvent .rxAbort = true)
      ∧ ∃ t, handle .txAccept (sendingState 1 6) = .next t ∧ isTxEvent .txAccept = true :=
  ⟨⟨_, rfl, rfl⟩, ⟨_, rfl, rfl⟩⟩
theorem witness_quiet_edge_only_clears_strobes :
    hostRequest (hostState .ready .reading).host = none ∧ hostRequest (sendingState 1 2).host = none := by decide
theorem witness_strobes_carry_their_values :
    (sendingState 1 6).tx.busy = true ∧ (sendingState 1 6).tx.cnt = 6 ∧ (sendingState 1 5).tx.busy = true
      ∧ (lastByteState (List.replicate 31 0)).rx.cnt = 31
      ∧ ¬(memRead1 (lastByteState (List.replicate 31 0)).rx 0 = 0x42
        ∧ memRead1 (lastByteState (List.replicate 31 0)).rx 1 = 0x4D)
      ∧ { State.reset.rx with cnt := 30 }.cnt ≠ 31 := by decide

/-- Edges that present a request: by the stimulus, and by the host. -/
theorem witness_step_runs_requested_command :
    (∃ p : Ports, (withInputs [.edge p] State.reset).inputs = .edge p :: [] ∧ p.rst = false
        ∧ portConflict p State.reset.host = false ∧ rxEventOf p = none ∧ State.reset.tx.busy = false
        ∧ (drivenPorts p State.reset.host).cmdValid = true)
      ∧ portConflict Ports.quiet (hostState .ready (.command .sleep .requesting)).host = false
      ∧ (drivenPorts Ports.quiet (hostState .ready (.command .sleep .requesting)).host).cmdValid = true :=
  ⟨⟨{ Ports.quiet with cmdValid := true, cmdSel := 2 }, by decide⟩, by decide⟩
theorem witness_step_runs_received_frame :
    ∃ p : Ports, (withInputs [.edge p] (lastByteState frameX5)).inputs = .edge p :: [] ∧ p.rst = false
      ∧ portConflict p (lastByteState frameX5).host = false ∧ p.rxAbort = false ∧ p.rxValid = true
      ∧ (lastByteState frameX5).rx.cnt = 31
      ∧ txEventOf (drivenPorts p (lastByteState frameX5).host) (lastByteState frameX5).tx.busy = none
      ∧ decode .sensorToHost (receivedFrame p.rxData (lastByteState frameX5).rx) = .ok (.data wordsX5) [] :=
  ⟨{ Ports.quiet with rxValid := true, rxData := 0x25 }, by decide⟩
theorem witness_step_runs_placed_pattern :
    decodeTableWord 56 0x424DE400010174 = some .wake
      ∧ decodeTableWord 256 0x424D0102030405060708090A0B0C0D0E0F101112131415161718191A1B1C0225 = some (.data wordsX5) := by
  decide

/-- A state in the middle of everything: two bytes of a frame received, a reading present, two bytes of `SLEEP` sent for
the host's `sleep`, and an edge that brings a byte and an acceptance. -/
def busyState : State where
  rx := { RxUnit.reset with
    cnt := 2, buf := [(0, 0x42), (1, 0x4D)], f := wordsX5, chkValid := true, present := true, log := [.out .frameDone] }
  tx := { TxUnit.reset with
    busy := true, sel := 2, cnt := 2, log := [.out (.txByte 0x4D), .out (.txByte 0x42), .cmdReq 2] }
  host := { HostAgent.reset with session := .ready, task := .command .sleep .awaiting }
  inputs := [.edge { Ports.quiet with rxValid := true, rxData := 0x99, txReady := true }]

theorem witness_step_keeps_tx_invariant :
    TxInv busyState.tx ∧ ∃ t, step busyState = .next t := ⟨by decide, _, rfl⟩
theorem witness_step_keeps_rx_invariant :
    RxInv busyState.rx ∧ ∃ t, step busyState = .next t := ⟨by decide, _, rfl⟩
theorem witness_step_keeps_host_invariant :
    HostInv busyState ∧ ∃ t, step busyState = .next t := ⟨by
      refine ⟨by decide, fun sel h => ?_⟩
      have : sel = 2 := by simpa [awaitedSelect, busyState, useSelect] using h.symm
      exact ⟨rfl, this.symm⟩, _, rfl⟩
/-- The two states differ in the draw and at offset 7, which the frame in progress has not reached. -/
theorem witness_buffer_reset_contents_unobservable :
    SameButBuffer busyState
      { busyState with rx := { busyState.rx with bufDraw := 5, buf := [(0, 0x42), (1, 0x4D), (7, 0x11)] } } := by decide
/-- X3: the highest valid checksum. -/
theorem witness_valid_flag_bounds_checksum :
    ∃ u : RxUnit, RxInv u ∧ u.chkValid = true ∧ (u.f.get 14).toNat = 0x1C73 :=
  ⟨{ RxUnit.reset with
      f := ⟨0xFFFF, 0xFFFF, 0xFFFF, 0xFFFF, 0xFFFF, 0xFFFF, 0xFFFF, 0xFFFF, 0xFFFF, 0xFFFF, 0xFFFF, 0xFFFF, 0xFFFF, 0xFFFF, 0x1C73⟩
      chkValid := true, present := true, log := [.out .frameDone] }, by decide⟩
theorem witness_reading_changes_only_at_frame_done :
    ∃ t, step busyState = .next t ∧ nextIsReset busyState = false ∧ OutEvent.frameDone ∉ t.rx.out :=
  ⟨_, rfl, by decide, by decide⟩
theorem witness_present_cleared_only_by_reset :
    ∃ t, step busyState = .next t ∧ nextIsReset busyState = false ∧ busyState.rx.present = true :=
  ⟨_, rfl, by decide, by decide⟩
theorem witness_select_changes_only_by_request :
    ∃ t, step busyState = .next t ∧ nextIsReset busyState = false := ⟨_, rfl, by decide⟩
theorem witness_host_call_table :
    (∀ x ∈ [Session.created, .ready, .sleeping],
        (hostState x .idle).host.session ≠ .closed ∧ (hostState x .idle).host.task = .idle)
      ∧ lawfulCall (.initializeSession .active) .created = true ∧ lawfulCall .read .ready = true
      ∧ lawfulCall .sleep .ready = true ∧ lawfulCall .wake .ready = true ∧ lawfulCall .wake .sleeping = true
      ∧ lawfulCall .close .created = true ∧ lawfulCall .read .sleeping = false := by decide
theorem witness_closed_session_returns_error : (hostState .closed .idle).host.session = .closed := by decide
theorem witness_closed_stays_closed :
    ∃ t, HostInv (hostState .closed .idle) ∧ step (hostState .closed .idle) = .next t
      ∧ nextIsReset (hostState .closed .idle) = false ∧ (hostState .closed .idle).host.session = .closed :=
  ⟨_, ⟨by decide, fun _ h => by simp [awaitedSelect, hostState] at h⟩, rfl, by decide, by decide⟩
/-- Also with the encoder busy, as after a host that was reset. -/
theorem witness_host_request_held_until_accepted :
    Ports.quiet.rst = false ∧ Ports.quiet.cmdValid = false
      ∧ (hostState .created (.command .initWake .requesting)).host.task = .command .initWake .requesting
      ∧ (hostState .created (.command .initWake .requesting)).tx.busy = false
      ∧ { hostState .created (.command .initWake .requesting) with tx := (sendingState 0 6).tx }.tx.busy = true := by decide
/-- Also meets the hypotheses of the statement about a failed `initialize`. -/
theorem witness_initialize_sends_mode_then_wake :
    State.reset.host.session = .created ∧ State.reset.host.task = .idle ∧ State.reset.tx.busy = false ∧ (6 : Nat) < 7 := by
  decide
theorem witness_sleep_and_wake_move_the_session :
    (6 : Nat) < 7 ∧ (hostState .ready .idle).host.task = .idle ∧ (hostState .ready .idle).tx.busy = false
      ∧ (hostState .ready .idle).host.session = .ready ∧ (hostState .sleeping .idle).host.session = .sleeping := by decide
/-- A host that waits in `read` one byte before the end of a frame with right, and with wrong, start bytes; an edge with
the last byte, an edge with an abort, and an edge with nothing. -/
theorem witness_read_returns_next_outcome :
    let s := { lastByteState frameX5 with host := (hostState .ready .reading).host }
    let s' := { lastByteState (List.replicate 31 0) with host := (hostState .ready .reading).host }
    let byte : Ports := { Ports.quiet with rxValid := true, rxData := 0x25 }
    let abort : Ports := { byte with rxAbort := true }
    s.host.task = .reading ∧ s.rx.cnt = 31 ∧ s'.host.task = .reading ∧ s'.rx.cnt = 31
      ∧ byte.rst = false ∧ byte.rxAbort = false ∧ byte.rxValid = true
      ∧ Frame.startOk (receivedFrame byte.rxData s.rx) = true ∧ Frame.startOk (receivedFrame byte.rxData s'.rx) = false
      ∧ abort.rst = false ∧ abort.rxAbort = true
      ∧ Ports.quiet.rst = false ∧ Ports.quiet.rxAbort = false ∧ Ports.quiet.rxValid = false := by decide
theorem witness_look_needs_a_reading :
    busyState.host.session ≠ .closed ∧ busyState.rx.present = true ∧ State.reset.rx.present = false := by decide
theorem witness_unlawful_moves_are_refused :
    (hostState .ready .reading).host.session ≠ .closed ∧ (hostState .ready .reading).host.task ≠ .idle
      ∧ portConflict { Ports.quiet with cmdValid := true } (hostState .ready (.command .sleep .requesting)).host = true
      ∧ (hostState .closed .idle).host.session = .closed := by decide

end Sys2Proof.Tests
end

section
/-! The two units (10_state R22): what each event of a unit does, as a function of that unit alone, and therefore that
events of different units commute. -/

namespace Sys2Proof.Machine

/-- What a whole 32-byte group does to the RX unit (R161, R163, R165): the unit's part of `frameComplete`, to which
`frameComplete_eq_mapRx` ties it. -/
def frameEffect (bs : Frame) (u : RxUnit) : RxUnit :=
  match decode .sensorToHost bs with
  | .ok (.data ws) _ => emitRx .frameDone (loadReading ws (checksumFlag ws) u)
  | .ok _ _ => u
  | .rejected _ => emitRx (.raised (.framingError (wordAt bs 0))) u

/-- What an RX event does to the RX unit, from that unit alone (R160, R167); an event of another kind does nothing to it.
`handle_rxEvent` ties it to `handle`. -/
def rxEffect (e : InEvent) (u : RxUnit) : RxUnit :=
  match e with
  | .rxByte b =>
    if u.cnt = 31 then frameEffect (receivedFrame b u) (setRxCnt 0 (memWrite1 u.cnt b u))
    else setRxCnt (u.cnt + 1) (memWrite1 u.cnt b u)
  | .rxAbort => setRxCnt 0 (emitRx (.raised (.transportReadError u.cnt)) u)
  | .reset => u
  | .cmdReq _ => u
  | .txAccept => u
  | .txAbort => u

/-- What a TX event does to the TX unit, from that unit alone (R135, R136, R137); an event of another kind does nothing to
it. `handle_txEvent` ties it to `handle`. -/
def txEffect (e : InEvent) (u : TxUnit) : TxUnit :=
  match e with
  | .cmdReq sel => if u.busy then u else startCommand sel u
  | .txAccept =>
    if u.busy then
      if u.cnt = 6 then emitTx .cmdDone (endCommand (emitTx (.txByte (currentCmdByte u)) u))
      else setTxCnt (u.cnt + 1) (emitTx (.txByte (currentCmdByte u)) u)
    else u
  | .txAbort => if u.busy then endCommand (emitTx (.raised (.commandWriteError u.cnt)) u) else u
  | .reset => u
  | .rxByte _ => u
  | .rxAbort => u

/-- The completion of a frame changes the RX unit alone (R161). -/
theorem frameComplete_eq_mapRx (bs : Frame) (s : State) :
    frameComplete bs s = .next (mapRx (frameEffect bs) s) := by
  unfold frameComplete frameEffect
  rcases decode_inbound_cases bs with ⟨hd, -⟩ | ⟨hd, -⟩ | ⟨hd, -⟩ <;> rw [hd] <;> rfl

/-- An RX event is a change of the RX unit that reads the RX unit alone (10_state R22). -/
theorem handle_rxEvent {e : InEvent} (he : isRxEvent e = true) (s : State) :
    handle e s = .next (mapRx (rxEffect e) s) := by
  cases e with
  | rxByte b =>
    by_cases hc : s.rx.cnt = 31
    · simp only [handle, rxByte, hc, if_true, frameComplete_eq_mapRx, mapRx, rxEffect]
    · simp only [handle, rxByte, hc, if_false, mapRx, rxEffect]
  | rxAbort => rfl
  | reset => cases he
  | cmdReq sel => cases he
  | txAccept => cases he
  | txAbort => cases he

/-- A TX event is a change of the TX unit that reads the TX unit alone (10_state R22). -/
theorem handle_txEvent {e : InEvent} (he : isTxEvent e = true) (s : State) :
    handle e s = .next (mapTx (txEffect e) s) := by
  cases e with
  | cmdReq sel =>
    simp only [handle, exec_decodeSelect, requestCommand, mapTx, txEffect]
    split <;> rfl
  | txAccept =>
    rcases txAccept_cases s with ⟨hb, h⟩ | ⟨hb, hc, h⟩ | ⟨hb, hc, h⟩
    · simp [handle, h, mapTx, txEffect, hb]
    · simp [handle, h, mapTx, txEffect, hb, hc]
    · simp only [handle, h, mapTx, txEffect, hb, hc, if_true, if_false]
  | txAbort =>
    rcases txAbort_cases s with ⟨hb, h⟩ | ⟨hb, h⟩
    · simp [handle, h, mapTx, txEffect, hb]
    · simp [handle, h, mapTx, txEffect, hb]
  | reset => cases he
  | rxByte b => cases he
  | rxAbort => cases he

/-- Settles O29: either order is the same pair of changes of two different units. -/
theorem unitsCommute : Obligations.UnitsCommute := by
  intro e e' s he he'
  simp only [handle_rxEvent he, handle_txEvent he', andThen_next_left, mapRx_mapTx_comm]

end Sys2Proof.Machine
end

section
/-! Placing a pattern of the opcode table (log entry 12): the bytes in the buffer, the edge that follows, and the
instruction it runs. -/

namespace Sys2Proof.Machine

/-! ### The buffer that lists given bytes -/

/-- Storing one byte after the listed ones lists it with them. -/
theorem memInsert_listedFrom (bs : List Byte) (a : Nat) (b : Byte) :
    memInsert (listedFrom a bs) (a + bs.length) b = listedFrom a (bs ++ [b]) := by
  induction bs generalizing a with
  | nil => rfl
  | cons c cs ih =>
    have hadd : a + (c :: cs).length = a + 1 + cs.length := by simp only [List.length_cons]; omega
    have hge : ¬ a + 1 + cs.length < a := by omega
    have hne : a ≠ a + 1 + cs.length := by omega
    rw [hadd]
    simp [listedFrom, memInsert, hge, hne, ih]

/-- The listed byte at an offset is the byte of the list there. -/
theorem memLookup_listedFrom (bs : List Byte) (a k : Nat) : memLookup (listedFrom a bs) (a + k) = bs[k]? := by
  induction bs generalizing a k with
  | nil => rfl
  | cons c cs ih =>
    cases k with
    | zero => simp [listedFrom, memLookup]
    | succ k =>
      have hadd : a + (k + 1) = a + 1 + k := by omega
      rw [hadd]
      simp [listedFrom, memLookup, ih, show a ≠ a + 1 + k by omega]

/-- A read of the buffer that lists a byte at that offset gives the byte, whatever the free values are. -/
theorem memRead1_listedFrom {u : RxUnit} {bs : List Byte} (hbuf : u.buf = listedFrom 0 bs) {a : BitVec 5} {b : Byte}
    (hb : bs[a.toNat]? = some b) : memRead1 u a = b := by
  have h := memLookup_listedFrom bs 0 a.toNat
  rw [Nat.zero_add, hb] at h
  simp only [memRead1, hbuf, h]

/-- With the first 31 bytes of a frame listed, the last byte completes that very frame (R160). -/
theorem receivedFrame_of_listed {u : RxUnit} {pre : List Byte} (b : Byte) (hlen : pre.length = 31)
    (hbuf : u.buf = listedFrom 0 pre) : receivedFrame b u = pre ++ [b] := by
  have hread : ∀ a < 31, memRead1 u (BitVec.ofNat 5 a) = pre.getD a 0 := fun a ha => by
    refine memRead1_listedFrom hbuf ?_
    have hnat : (BitVec.ofNat 5 a).toNat = a := by
      rw [BitVec.toNat_ofNat]; exact Nat.mod_eq_of_lt (by omega)
    rw [hnat, List.getD_eq_getElem?_getD, List.getElem?_eq_getElem (by omega)]
    rfl
  refine congrArg (· ++ [b]) (List.ext_getElem (by simp [hlen]) fun k hk hk' => ?_)
  have hk31 : k < 31 := by simpa using hk
  simp [hread k hk31, List.getD_eq_getElem?_getD, List.getElem?_eq_getElem hk']

/-! ### The events of an edge -/

/-- A sequence that ends by answering its state is its first part. -/
@[simp] theorem andThen_next_right (o : Host.Outcome State Fault Refusal) : andThen o .next = o := by
  cases o <;> rfl

/-- An edge without an RX event is its TX event (10_state R44). -/
theorem edgeEvents_of_no_rx {p : Ports} {s : State} (h : rxEventOf p = none) :
    edgeEvents p s = handleOpt (txEventOf p s.tx.busy) (clearStrobes s) := by
  simp [edgeEvents, h, handleOpt]

/-- An edge without a TX event is its RX event (10_state R44). -/
theorem edgeEvents_of_no_tx {p : Ports} {s : State} (h : txEventOf p s.tx.busy = none) :
    edgeEvents p s = handleOpt (rxEventOf p) (clearStrobes s) := by
  rw [edgeEvents, h]
  exact andThen_next_right _

/-- The events of an edge leave the host alone (10_state R22, R34). -/
theorem edgeEvents_host {p : Ports} {s t : State} (h : edgeEvents p s = .next t) : t.host = s.host := by
  obtain ⟨s1, h1, h2⟩ := andThen_next h
  obtain ⟨htx, hhost, -⟩ := rxEvent_frame h1
  obtain ⟨-, hhost', -⟩ := txEvent_frame (by rw [htx]; rfl) h2
  rw [hhost', hhost]
  rfl

/-- An idle host drives no port and reacts to no output (R209). -/
theorem clockEdge_of_idle_host {p : Ports} {s : State} (hrst : p.rst = false) (hidle : s.host.task = .idle) :
    clockEdge p s = edgeEvents p s := by
  have hreq : hostRequest s.host = none := by simp only [hostRequest, hidle]
  have hports : drivenPorts p s.host = p := by simp only [drivenPorts, hreq]
  have hconf : portConflict p s.host = false := by simp [portConflict, hreq]
  have hfinish : ∀ t, t.host = s.host → finishEdge s.tx.busy t = .next t := fun t ht => by
    have hobserve : hostObserve s.tx.busy (outPorts t) t.host = t.host := by simp only [hostObserve, ht, hidle]
    simp only [finishEdge, mapHost, hobserve]
  simp only [clockEdge, hrst, hconf, hports, Bool.false_eq_true, if_false]
  cases he : edgeEvents p s with
  | next t => exact hfinish t (edgeEvents_host he)
  | fault r => rfl
  | refused r => rfl

/-- The byte at offset 31 of a frame that decodes executes its instruction (R160, R161). -/
theorem rxByte_of_decode {b : Byte} {s : State} {i : Instr} {rest : List Byte} (hcnt : s.rx.cnt = 31)
    (hdec : decode .sensorToHost (receivedFrame b s.rx) = .ok i rest) :
    rxByte b s = exec i (mapRx (fun u => setRxCnt 0 (memWrite1 u.cnt b u)) s) := by
  simp only [rxByte, hcnt, if_true, frameComplete, hdec]

/-! ### The decoder on patterns -/

/-- A pattern of `nbits` bits has `nbits / 8` bytes. -/
theorem patternBytes_length (nbits w : Nat) : (patternBytes nbits w).length = nbits / 8 := by
  simp [patternBytes]

/-- A pattern decodes only as 56 outbound or 256 inbound bits (30_encoding R90). -/
theorem decodeTableWord_cases {nbits w : Nat} {i : Instr} (h : decodeTableWord nbits w = some i) :
    ∃ rest, (nbits = 56 ∧ decode .hostToSensor (patternBytes nbits w) = .ok i rest)
      ∨ (nbits = 256 ∧ decode .sensorToHost (patternBytes nbits w) = .ok i rest) := by
  have ofDir : ∀ {dir}, patternDirection nbits = some dir → ∃ rest, decode dir (patternBytes nbits w) = .ok i rest :=
    fun {dir} hd => by
      simp only [decodeTableWord, hd] at h
      cases hdec : decode dir (patternBytes nbits w) with
      | ok j rest => simp only [hdec, Option.some.injEq] at h; exact ⟨rest, by rw [h]⟩
      | rejected why => simp [hdec] at h
  by_cases h56 : nbits = 56
  · obtain ⟨rest, hr⟩ := ofDir (show patternDirection nbits = some .hostToSensor by simp [patternDirection, h56])
    exact ⟨rest, .inl ⟨h56, hr⟩⟩
  · by_cases h256 : nbits = 256
    · obtain ⟨rest, hr⟩ := ofDir (show patternDirection nbits = some .sensorToHost by simp [patternDirection, h256])
      exact ⟨rest, .inr ⟨h256, hr⟩⟩
    · simp [decodeTableWord, patternDirection, h56, h256] at h

/-- What the outbound decoder reads has a select code, which names it (30_encoding R101, R103). -/
theorem decode_outbound_select {bs rest : List Byte} {i : Instr} (h : decode .hostToSensor bs = .ok i rest) :
    ∃ sel, selectOf i = some sel ∧ decodeSelect sel = i := by
  have table : ∀ row ∈ commandTable, ∃ sel, selectOf row.2 = some sel ∧ decodeSelect sel = row.2 := by decide
  simp only [decode, decodeCommand] at h
  split at h
  · cases h
  · split at h
    · next row hrow => cases h; exact table row (List.mem_of_find?_eq_some hrow)
    · cases h

/-! ### The step after placing -/

/-- A step with an edge at the head of the stimuli is that edge. -/
theorem step_of_edge {s : State} {p : Ports} {rest : List Stimulus} (h : s.inputs = .edge p :: rest) :
    step s = clockEdge p (takeStimulus s) := by
  simp only [step, nextStimulus, h, perform]

/-- The step after a command is placed executes it, with the encoder idle (log entry 12). -/
theorem step_placeCommand (sel : BitVec 2) (s : State) :
    step (placeCommand sel s) = exec (decodeSelect sel) { s with
      rx := { s.rx with out := [] }
      tx := { s.tx with busy := false, cnt := 0, out := [] }
      host := setTask .idle s.host } := by
  rw [step_of_edge rfl, clockEdge_of_idle_host rfl rfl, edgeEvents_of_no_rx rfl]
  rfl

/-- The step after a 32-byte frame is placed executes the instruction it decodes to, with the whole frame in the buffer
(log entry 12). -/
theorem step_placeFrame {bs : Frame} {i : Instr} {rest : List Byte} (s : State) (hlen : bs.length = Config.frameLen)
    (hdec : decode .sensorToHost bs = .ok i rest) :
    step (placeFrame bs s) = exec i { s with
      rx := { s.rx with cnt := 0, buf := listedFrom 0 bs, out := [] }
      tx := { s.tx with out := [] }
      host := setTask .idle s.host } := by
  have hlen32 : bs.length = 31 + 1 := hlen
  have hpre : (bs.take 31).length = 31 := by simp [hlen32]
  have hsplit : bs.take 31 ++ [bs.getD 31 0] = bs := by
    rw [List.getD_eq_getElem _ _ (by omega), ← List.take_succ_eq_append_getElem (by omega), ← hlen32, List.take_length]
  have hstored : memInsert (listedFrom 0 (bs.take 31)) 31 (bs.getD 31 0) = listedFrom 0 bs := by
    have h := memInsert_listedFrom (bs.take 31) 0 (bs.getD 31 0)
    rwa [hpre, hsplit] at h
  have hno : txEventOf { Ports.quiet with rxValid := true, rxData := bs.getD 31 0 } s.tx.busy = none := by
    cases s.tx.busy <;> rfl
  have hgot : decode .sensorToHost
      (receivedFrame (bs.getD 31 0) (clearStrobes (takeStimulus (placeFrame bs s))).rx) = .ok i rest := by
    rw [receivedFrame_of_listed _ hpre rfl, hsplit, hdec]
  rw [step_of_edge rfl, clockEdge_of_idle_host rfl rfl,
    edgeEvents_of_no_tx (s := takeStimulus (placeFrame bs s)) hno, ← hstored]
  exact rxByte_of_decode rfl hgot

/-- Settles O35: an outbound pattern is placed as its select code and requested, an inbound one as 31 listed bytes and an
edge with the last. -/
theorem stepRunsPlacedPattern : Obligations.StepRunsPlacedPattern := by
  intro s nbits w i h
  obtain ⟨rest, ⟨rfl, hdec⟩ | ⟨rfl, hdec⟩⟩ := decodeTableWord_cases h
  · obtain ⟨sel, hsel, rfl⟩ := decode_outbound_select hdec
    have hplace : s.withFetchWord 56 w = placeCommand sel s := by
      simp only [State.withFetchWord, placePattern, show patternDirection 56 = some .hostToSensor from rfl, hdec, hsel]
    exact ⟨_, hplace ▸ step_placeCommand sel s, .inl rfl, fun _ => rfl, fun h256 => absurd h256 (by decide)⟩
  · have hplace : s.withFetchWord 256 w = placeFrame (patternBytes 256 w) s := rfl
    exact ⟨_, hplace ▸ step_placeFrame s (patternBytes_length 256 w) hdec, .inr rfl,
      fun h56 => absurd h56 (by decide), fun _ => rfl⟩

end Sys2Proof.Machine
end

section
/-! One edge, unit by unit (10_state R44): what it leaves in each unit is a function of the ports and that unit alone,
and every step either leaves both units alone, resets them, or is such an edge. -/

namespace Sys2Proof.Machine

/-! ### The ports with the host on them -/

section DrivenPorts

variable (p : Ports) (h : HostAgent)

@[simp] theorem drivenPorts_rxAbort : (drivenPorts p h).rxAbort = p.rxAbort := by
  unfold drivenPorts; split <;> rfl

@[simp] theorem drivenPorts_rxValid : (drivenPorts p h).rxValid = p.rxValid := by
  unfold drivenPorts; split <;> rfl

@[simp] theorem drivenPorts_rxData : (drivenPorts p h).rxData = p.rxData := by
  unfold drivenPorts; split <;> rfl

@[simp] theorem drivenPorts_txAbort : (drivenPorts p h).txAbort = p.txAbort := by
  unfold drivenPorts; split <;> rfl

@[simp] theorem drivenPorts_txReady : (drivenPorts p h).txReady = p.txReady := by
  unfold drivenPorts; split <;> rfl

/-- A select code is on the command port if the outside or the host drives it (R209). -/
theorem drivenPorts_cmdValid : (drivenPorts p h).cmdValid = (p.cmdValid || (hostRequest h).isSome) := by
  unfold drivenPorts
  cases hostRequest h <;> simp

/-- The host's select code is the one on the port where it holds a request (R209). -/
theorem drivenPorts_cmdSel : (drivenPorts p h).cmdSel = (hostRequest h).getD p.cmdSel := by
  unfold drivenPorts
  cases hostRequest h <;> rfl

/-- The host drives the command port alone (R209). -/
@[simp] theorem rxEventOf_drivenPorts : rxEventOf (drivenPorts p h) = rxEventOf p := by
  simp [rxEventOf]

/-- The command port does not count while a command is sent (10_state R44, R45). -/
@[simp] theorem txEventOf_drivenPorts_busy : txEventOf (drivenPorts p h) true = txEventOf p true := by
  simp [txEventOf]

/-- A host without a request leaves the ports as the outside drives them. -/
theorem drivenPorts_of_no_request {h : HostAgent} (hreq : hostRequest h = none) : drivenPorts p h = p := by
  simp only [drivenPorts, hreq]

/-- A request of the host stands on the command port (10_state R45, R209). -/
theorem drivenPorts_of_request {h : HostAgent} {sel : BitVec 2} (hreq : hostRequest h = some sel) :
    drivenPorts p h = { p with cmdValid := true, cmdSel := sel } := by
  simp only [drivenPorts, hreq]

/-- Where the outside does not drive the command port there are no two drivers (70 R287). -/
theorem portConflict_of_undriven {p : Ports} (hp : p.cmdValid = false) : portConflict p h = false := by
  simp [portConflict, hp]

end DrivenPorts

/-! ### The event of each unit at an edge -/

/-- The RX event of an edge is an event of the RX unit. -/
theorem isRxEvent_of_rxEventOf {p : Ports} {e : InEvent} (h : rxEventOf p = some e) : isRxEvent e = true := by
  unfold rxEventOf at h
  split at h
  · cases h; rfl
  · split at h <;> cases h
    rfl

/-- The TX event of an edge is an event of the TX unit. -/
theorem isTxEvent_of_txEventOf {p : Ports} {busy : Bool} {e : InEvent} (h : txEventOf p busy = some e) :
    isTxEvent e = true := by
  unfold txEventOf at h
  split at h
  · split at h
    · cases h; rfl
    · split at h <;> cases h
      rfl
  · split at h <;> cases h
    rfl

/-- What an edge leaves in the RX unit (R43, R44): the strobes go back to 0, then the event of the unit, if there is one.
`edgeEvents_eq` ties it to `edgeEvents`. -/
def rxEdge (p : Ports) (u : RxUnit) : RxUnit :=
  match rxEventOf p with
  | some e => rxEffect e { u with out := [] }
  | none => { u with out := [] }

/-- What an edge leaves in the TX unit (R43, R44). `edgeEvents_eq` ties it to `edgeEvents`. -/
def txEdge (p : Ports) (u : TxUnit) : TxUnit :=
  match txEventOf p u.busy with
  | some e => txEffect e { u with out := [] }
  | none => { u with out := [] }

theorem rxEdge_of_event {p : Ports} {e : InEvent} (h : rxEventOf p = some e) (u : RxUnit) :
    rxEdge p u = rxEffect e { u with out := [] } := by
  simp only [rxEdge, h]

theorem rxEdge_of_none {p : Ports} (h : rxEventOf p = none) (u : RxUnit) : rxEdge p u = { u with out := [] } := by
  simp only [rxEdge, h]

theorem txEdge_of_event {p : Ports} {u : TxUnit} {e : InEvent} (h : txEventOf p u.busy = some e) :
    txEdge p u = txEffect e { u with out := [] } := by
  simp only [txEdge, h]

theorem txEdge_of_none {p : Ports} {u : TxUnit} (h : txEventOf p u.busy = none) :
    txEdge p u = { u with out := [] } := by
  simp only [txEdge, h]

@[simp] theorem rxEdge_drivenPorts (p : Ports) (h : HostAgent) (u : RxUnit) :
    rxEdge (drivenPorts p h) u = rxEdge p u := by
  simp only [rxEdge, rxEventOf_drivenPorts]

/-- The state after the events of both units. -/
def afterEvents (p : Ports) (s : State) : State := { s with rx := rxEdge p s.rx, tx := txEdge p s.tx }

/-- The events of an edge always answer, each unit from itself alone (10_state R22, R48). -/
theorem edgeEvents_eq (p : Ports) (s : State) : edgeEvents p s = .next (afterEvents p s) := by
  have hrx : handleOpt (rxEventOf p) (clearStrobes s)
      = .next { s with rx := rxEdge p s.rx, tx := { s.tx with out := [] } } := by
    cases he : rxEventOf p with
    | none => rw [rxEdge_of_none he]; rfl
    | some e => rw [rxEdge_of_event he]; exact handle_rxEvent (isRxEvent_of_rxEventOf he) _
  rw [edgeEvents, hrx, andThen_next_left, afterEvents]
  cases he : txEventOf p s.tx.busy with
  | none => rw [txEdge_of_none he]; rfl
  | some e => rw [txEdge_of_event he]; exact handle_txEvent (isTxEvent_of_txEventOf he) _

/-- The state after an edge without reset: the events of both units on the ports with the host on them, then the host's
reaction to the outputs. -/
def edgeResult (p : Ports) (s : State) : State :=
  mapHost (hostObserve s.tx.busy (outPorts (afterEvents (drivenPorts p s.host) s)))
    (afterEvents (drivenPorts p s.host) s)

@[simp] theorem edgeResult_rx (p : Ports) (s : State) : (edgeResult p s).rx = rxEdge p s.rx := rxEdge_drivenPorts ..
@[simp] theorem edgeResult_tx (p : Ports) (s : State) : (edgeResult p s).tx = txEdge (drivenPorts p s.host) s.tx := rfl
@[simp] theorem edgeResult_inputs (p : Ports) (s : State) : (edgeResult p s).inputs = s.inputs := rfl
theorem edgeResult_host (p : Ports) (s : State) :
    (edgeResult p s).host = hostObserve s.tx.busy (outPorts (afterEvents (drivenPorts p s.host) s)) s.host := rfl

/-- An edge with `rst` is a reset and nothing else (10_state R44). -/
theorem clockEdge_of_rst {p : Ports} (h : p.rst = true) (s : State) : clockEdge p s = .next (resetEvent s) :=
  if_pos h

/-- An edge without reset is the events of both units and then the host, unless the command port has two drivers. -/
theorem clockEdge_eq_events {p : Ports} {s : State} (hrst : p.rst = false) (hconf : portConflict p s.host = false) :
    clockEdge p s = andThen (edgeEvents (drivenPorts p s.host) s) (finishEdge s.tx.busy) := by
  simp [clockEdge, hrst, hconf]

/-- An edge without reset and without two drivers always answers. -/
theorem clockEdge_eq {p : Ports} {s : State} (hrst : p.rst = false) (hconf : portConflict p s.host = false) :
    clockEdge p s = .next (edgeResult p s) := by
  rw [clockEdge_eq_events hrst hconf, edgeEvents_eq]
  rfl

/-- An edge with two drivers of the command port is refused (70 R287, 93 U7). -/
theorem clockEdge_of_conflict {p : Ports} {s : State} (hrst : p.rst = false) (hconf : portConflict p s.host = true) :
    clockEdge p s = .refused .twoDrivers := by
  simp [clockEdge, hrst, hconf]

/-! ### What a step can do to the units -/

/-- A step leaves both units alone, resets them, or is an edge of each. -/
theorem step_units {s t : State} (h : step s = .next t) :
    (t.rx = s.rx ∧ t.tx = s.tx)
      ∨ (nextIsReset s = true ∧ t.rx = resetRx s.rx ∧ t.tx = resetTx s.tx)
      ∨ ∃ p, t.rx = rxEdge p s.rx ∧ t.tx = txEdge p s.tx := by
  rcases step_next h with ⟨p, hp, he⟩ | ⟨c, -, hc⟩ | ⟨l, -, hl⟩ | ⟨-, hr⟩
  · cases hrst : p.rst
    · cases hconf : portConflict p (takeStimulus s).host
      · rw [clockEdge_eq hrst hconf] at he
        cases he
        exact .inr (.inr ⟨drivenPorts p s.host, by simp, by simp⟩)
      · rw [clockEdge_of_conflict hrst hconf] at he
        cases he
    · rw [clockEdge_of_rst hrst] at he
      cases he
      exact .inr (.inl ⟨by simp only [nextIsReset, hp, hrst], rfl, rfl⟩)
  · rw [hostCall_next hc]; exact .inl ⟨rfl, rfl⟩
  · rw [hostLook_next hl]; exact .inl ⟨rfl, rfl⟩
  · rw [hostReadF_next hr]; exact .inl ⟨rfl, rfl⟩

/-- What a whole 32-byte group can do to the RX unit (R161, R163, R165). -/
theorem frameEffect_cases (bs : Frame) (u : RxUnit) :
    frameEffect bs u = emitRx .frameDone (loadReading (fieldsOf bs) (checksumFlag (fieldsOf bs)) u)
      ∨ frameEffect bs u = emitRx (.raised (.framingError (wordAt bs 0))) u := by
  unfold frameEffect
  rcases decode_inbound_cases bs with ⟨hd, -⟩ | ⟨hd, -⟩ | ⟨hd, -⟩ <;> rw [hd]
  · exact .inl rfl
  · exact .inr rfl
  · exact .inr rfl

/-- What an edge can do to the RX unit, after its strobes are cleared (R44, R160, R161, R167). -/
theorem rxEdge_cases (p : Ports) (u : RxUnit) :
    rxEdge p u = { u with out := [] }
      ∨ rxEdge p u = setRxCnt 0 (emitRx (.raised (.transportReadError u.cnt)) { u with out := [] })
      ∨ (u.cnt ≠ 31 ∧ rxEdge p u = setRxCnt (u.cnt + 1) (memWrite1 u.cnt p.rxData { u with out := [] }))
      ∨ (u.cnt = 31 ∧ rxEdge p u
          = frameEffect (receivedFrame p.rxData u) (setRxCnt 0 (memWrite1 u.cnt p.rxData { u with out := [] }))) := by
  unfold rxEdge rxEventOf
  split
  next e he =>
    split at he
    · cases he; exact .inr (.inl rfl)
    · split at he <;> cases he
      by_cases hc : u.cnt = 31
      · exact .inr (.inr (.inr ⟨hc, if_pos hc⟩))
      · exact .inr (.inr (.inl ⟨hc, if_neg hc⟩))
  next => exact .inl rfl

end Sys2Proof.Machine
end

section
/-! The invariants of the RX unit (41_frame_parser R171, 10_state R25): each write of the unit keeps them, so every step
does. -/

namespace Sys2Proof.Machine

/-- A store lists the byte stored and keeps every listed one. -/
theorem memLookup_memInsert_isSome {m : Memory} {a a' : Nat} (b : Byte) (h : a' = a ∨ (memLookup m a').isSome = true) :
    (memLookup (memInsert m a b) a').isSome = true := by
  by_cases ha : a' = a
  · rw [ha, memLookup_memInsert_same]; rfl
  · rw [memLookup_memInsert_other m b ha]; exact h.resolve_left ha

/-- The invariants do not speak of the strobes. -/
theorem rxInv_clearOut {u : RxUnit} (h : RxInv u) : RxInv { u with out := [] } := h

/-- The counter may move to any position up to which the buffer lists every byte (R25). -/
theorem rxInv_setRxCnt {u : RxUnit} {v : BitVec 5} (h : RxInv u)
    (hv : ∀ a : BitVec 5, a < v → (memLookup u.buf a.toNat).isSome = true) : RxInv (setRxCnt v u) := by
  obtain ⟨hwf, -, habsent, hflag, hdone⟩ := h
  exact ⟨hwf, hv, habsent, hflag, hdone⟩

/-- A new frame has received nothing. -/
theorem rxInv_setRxCnt_zero {u : RxUnit} (h : RxInv u) : RxInv (setRxCnt 0 u) :=
  rxInv_setRxCnt h fun a ha => absurd ha (by simp)

/-- A store keeps the listed bytes listed and the buffer in canonical form (R25). -/
theorem rxInv_memWrite1 (a : BitVec 5) (b : Byte) {u : RxUnit} (h : RxInv u) : RxInv (memWrite1 a b u) := by
  obtain ⟨hwf, hlisted, habsent, hflag, hdone⟩ := h
  have hkept : ∀ a' : BitVec 5, a' < u.cnt → (memLookup (memWrite1 a b u).buf a'.toNat).isSome = true :=
    fun a' ha' => memLookup_memInsert_isSome b (.inr (hlisted a' ha'))
  exact ⟨memWrite1_wf a b hwf, hkept, habsent, hflag, hdone⟩

/-- A byte stored at the counter is received (R160). -/
theorem rxInv_store {u : RxUnit} (b : Byte) (h : RxInv u) :
    RxInv (setRxCnt (u.cnt + 1) (memWrite1 u.cnt b u)) := by
  refine rxInv_setRxCnt (rxInv_memWrite1 u.cnt b h) fun a ha => memLookup_memInsert_isSome b ?_
  have hsplit : a = u.cnt ∨ a < u.cnt := by bv_omega
  obtain ⟨-, hlisted, -⟩ := h
  exact hsplit.imp (congrArg BitVec.toNat) (hlisted a)

/-- An exception changes neither the reading nor whether a `FrameDone` came (R163, R167). -/
theorem rxInv_emit_raised (e : Exception) {u : RxUnit} (h : RxInv u) : RxInv (emitRx (.raised e) u) := by
  obtain ⟨hwf, hlisted, habsent, hflag, hdone⟩ := h
  exact ⟨hwf, hlisted, habsent, hflag, by simpa [sinceReset] using hdone⟩

/-- A reading comes with its checksum comparison and its `FrameDone` (R171 (c), (d)). -/
theorem rxInv_reading (ws : Fields) {u : RxUnit} (h : RxInv u) :
    RxInv (emitRx .frameDone (loadReading ws (checksumFlag ws) u)) := by
  obtain ⟨hwf, hlisted, -⟩ := h
  exact ⟨hwf, hlisted, fun hp => absurd hp (by simp), fun _ => rfl, by simp [sinceReset]⟩

/-- A whole 32-byte group becomes a reading or an exception (R161). -/
theorem rxInv_frameEffect (bs : Frame) {u : RxUnit} (h : RxInv u) : RxInv (frameEffect bs u) := by
  rcases frameEffect_cases bs u with e | e <;> rw [e]
  · exact rxInv_reading _ h
  · exact rxInv_emit_raised _ h

@[simp] theorem resetRx_cnt (u : RxUnit) : (resetRx u).cnt = 0 := rfl
@[simp] theorem resetRx_present (u : RxUnit) : (resetRx u).present = false := rfl
@[simp] theorem resetRx_log (u : RxUnit) : (resetRx u).log = .reset :: u.log := rfl

/-- A reset leaves no frame in progress and no reading (R270). -/
theorem rxInv_resetRx (u : RxUnit) : RxInv (resetRx u) :=
  ⟨reset_memory_wf, fun a ha => absurd ha (by simp), fun _ => ⟨rfl, rfl⟩, fun hp => absurd hp (by simp),
    by simp [sinceReset]⟩

/-- Whatever the ports, an edge keeps the invariants. -/
theorem rxInv_rxEdge (p : Ports) {u : RxUnit} (h : RxInv u) : RxInv (rxEdge p u) := by
  have hclear := rxInv_clearOut h
  rcases rxEdge_cases p u with e | e | ⟨-, e⟩ | ⟨-, e⟩ <;> rw [e]
  · exact hclear
  · exact rxInv_setRxCnt_zero (rxInv_emit_raised _ hclear)
  · exact rxInv_store p.rxData hclear
  · exact rxInv_frameEffect _ (rxInv_setRxCnt_zero (rxInv_memWrite1 _ _ hclear))

/-- Settles O37: a step leaves the RX unit alone, resets it, or is an edge, and each keeps the invariants. -/
theorem stepKeepsRxInvariant : Obligations.StepKeepsRxInvariant := by
  intro s t hinv h
  rcases step_units h with ⟨hrx, -⟩ | ⟨-, hrx, -⟩ | ⟨p, hrx, -⟩ <;> rw [hrx]
  · exact hinv
  · exact rxInv_resetRx s.rx
  · exact rxInv_rxEdge p hinv

end Sys2Proof.Machine
end

section
/-! A host call by the table of 42_host_session R201: one equation for a closed session, one for a host with a call in
progress, one for an idle host. -/

namespace Sys2Proof.Machine

/-- What a lawful call does to the host (R203 to R207). `hostCall_open` ties it to `hostCall`. -/
def beginCall (c : HostCall) (h : HostAgent) : HostAgent :=
  match c with
  | .initializeSession m => beginInitialize m h
  | .read => setTask .reading h
  | .sleep => setTask (.command .sleep .requesting) h
  | .wake => setTask (.command .wake .requesting) h
  | .close => returnResult .close .done (setSession .closed h)

/-- In `Closed` every call returns `SessionClosedError` (R208). -/
theorem hostCall_closed (c : HostCall) {s : State} (h : s.host.session = .closed) :
    hostCall c s = .next (mapHost (returnResult c (.error .sessionClosedError)) s) := by
  simp only [hostCall, h]

/-- A call while another is in progress is refused (R202, 93 U7). -/
theorem hostCall_inProgress (c : HostCall) {s : State} (hopen : s.host.session ≠ .closed)
    (htask : s.host.task ≠ .idle) : hostCall c s = .refused .callInProgress := by
  cases hs : s.host.session
  case closed => exact absurd hs hopen
  all_goals simp only [hostCall, hs, if_pos htask]

/-- An idle host begins a lawful call, and a "no move" is refused (R201, R243). -/
theorem hostCall_open (c : HostCall) {s : State} (hopen : s.host.session ≠ .closed) (hidle : s.host.task = .idle) :
    hostCall c s = if lawfulCall c s.host.session then .next (mapHost (beginCall c) s)
      else .refused (.noMove c s.host.session) := by
  cases hs : s.host.session
  case closed => exact absurd hs hopen
  all_goals
    simp only [hostCall, hs, hidle, ne_eq, not_true_eq_false, if_false]
    cases c <;> rfl

end Sys2Proof.Machine
end

section
/-! The buffer beyond the received bytes (10_state R25, R50): each write of the RX unit keeps the part of `SameButBuffer`
that is about that unit, and neither the outputs nor the host see the difference. -/

namespace Sys2Proof.Machine

/-! ### Two RX units that differ only in the buffer beyond the received bytes -/

/-- The part of `SameButBuffer` about the RX unit, to which `sameButBuffer_iff` ties it. -/
def SameRxButBuffer (u u' : RxUnit) : Prop :=
  u' = { u with buf := u'.buf, bufDraw := u'.bufDraw } ∧ ∀ a : BitVec 5, a < u.cnt → memRead1 u a = memRead1 u' a

/-- States are the same but for the buffer when their RX units are and the rest is the same. -/
theorem sameButBuffer_iff {s s' : State} :
    SameButBuffer s s' ↔ SameRxButBuffer s.rx s'.rx ∧ s'.tx = s.tx ∧ s'.host = s.host ∧ s'.inputs = s.inputs := by
  cases s
  cases s'
  simp only [SameButBuffer, SameRxButBuffer, State.mk.injEq]
  tauto

/-- A store makes two buffers alike at its offset, and keeps them alike where they were. -/
theorem memRead1_memWrite1_congr {u u' : RxUnit} {a a' : BitVec 5} (b : Byte)
    (ha : a' = a ∨ memRead1 u a' = memRead1 u' a') :
    memRead1 (memWrite1 a b u) a' = memRead1 (memWrite1 a b u') a' := by
  by_cases heq : a' = a
  · rw [heq, memRead1_memWrite1_same, memRead1_memWrite1_same]
  · rw [memRead1_memWrite1_other b u heq, memRead1_memWrite1_other b u' heq]
    exact ha.resolve_left heq

section SameRxButBuffer

variable {u u' : RxUnit} (h : SameRxButBuffer u u')

include h

theorem SameRxButBuffer.cnt_eq : u'.cnt = u.cnt := by rw [h.1]

theorem SameRxButBuffer.clearOut : SameRxButBuffer { u with out := [] } { u' with out := [] } :=
  ⟨congrArg (fun v : RxUnit => { v with out := [] }) h.1, h.2⟩

theorem SameRxButBuffer.emitRx (e : OutEvent) : SameRxButBuffer (emitRx e u) (emitRx e u') :=
  ⟨congrArg (Machine.emitRx e) h.1, h.2⟩

theorem SameRxButBuffer.loadReading (ws : Fields) (c : Bool) :
    SameRxButBuffer (loadReading ws c u) (loadReading ws c u') :=
  ⟨congrArg (Machine.loadReading ws c) h.1, h.2⟩

/-- The counter may move to any position up to which the two buffers read alike. -/
theorem SameRxButBuffer.setRxCnt {v : BitVec 5} (hv : ∀ a : BitVec 5, a < v → memRead1 u a = memRead1 u' a) :
    SameRxButBuffer (setRxCnt v u) (setRxCnt v u') :=
  ⟨congrArg (Machine.setRxCnt v) h.1, hv⟩

theorem SameRxButBuffer.setRxCnt_zero : SameRxButBuffer (Machine.setRxCnt 0 u) (Machine.setRxCnt 0 u') :=
  h.setRxCnt fun a ha => absurd ha (by simp)

theorem SameRxButBuffer.memWrite1 (a : BitVec 5) (b : Byte) : SameRxButBuffer (memWrite1 a b u) (memWrite1 a b u') := by
  refine ⟨?_, fun a' ha' => memRead1_memWrite1_congr b (.inr (h.2 a' ha'))⟩
  rw [h.1]
  rfl

/-- The byte stored at the counter is one more offset at which the buffers are alike (R160). -/
theorem SameRxButBuffer.store (b : Byte) :
    SameRxButBuffer (Machine.setRxCnt (u.cnt + 1) (Machine.memWrite1 u.cnt b u))
      (Machine.setRxCnt (u.cnt + 1) (Machine.memWrite1 u.cnt b u')) := by
  refine (h.memWrite1 u.cnt b).setRxCnt fun a ha => memRead1_memWrite1_congr b ?_
  have hsplit : a = u.cnt ∨ a < u.cnt := by bv_omega
  exact hsplit.imp_right (h.2 a)

/-- A frame reads the 31 received bytes, at which the buffers are alike (R160). -/
theorem SameRxButBuffer.receivedFrame_eq (b : Byte) (hc : u.cnt = 31) : receivedFrame b u' = receivedFrame b u := by
  refine congrArg (· ++ [b]) (List.map_congr_left fun a ha => (h.2 _ ?_).symm)
  have hlt : a < 31 := List.mem_range.mp ha
  rw [hc, BitVec.lt_def, BitVec.toNat_ofNat]
  exact (Nat.mod_le a (2 ^ 5)).trans_lt hlt

theorem SameRxButBuffer.frameEffect (bs : Frame) : SameRxButBuffer (frameEffect bs u) (frameEffect bs u') := by
  unfold Machine.frameEffect
  split
  · exact (h.loadReading _ _).emitRx _
  · exact h
  · exact h.emitRx _

/-- Every RX event keeps the relation. -/
theorem SameRxButBuffer.rxEffect (e : InEvent) : SameRxButBuffer (rxEffect e u) (rxEffect e u') := by
  cases e with
  | rxByte b =>
    simp only [Machine.rxEffect, h.cnt_eq]
    split
    · next hc =>
      rw [h.receivedFrame_eq b hc]
      exact (h.memWrite1 u.cnt b).setRxCnt_zero.frameEffect _
    · exact h.store b
  | rxAbort =>
    simp only [Machine.rxEffect, h.cnt_eq]
    exact (h.emitRx _).setRxCnt_zero
  | reset => exact h
  | cmdReq sel => exact h
  | txAccept => exact h
  | txAbort => exact h

theorem SameRxButBuffer.rxEdge (p : Ports) : SameRxButBuffer (rxEdge p u) (rxEdge p u') := by
  unfold Machine.rxEdge
  split
  · exact h.clearOut.rxEffect _
  · exact h.clearOut

/-- A reset draws the buffer of each afresh and makes the rest alike. -/
theorem SameRxButBuffer.resetRx : SameRxButBuffer (resetRx u) (resetRx u') := by
  refine ⟨?_, fun a ha => absurd ha (by simp)⟩
  rw [h.1]
  rfl

end SameRxButBuffer

/-! ### Two states that differ only there -/

section SameButBuffer

variable {s s' : State} (h : SameButBuffer s s')

include h

theorem SameButBuffer.tx_eq : s'.tx = s.tx := by rw [h.1]
theorem SameButBuffer.host_eq : s'.host = s.host := by rw [h.1]
theorem SameButBuffer.inputs_eq : s'.inputs = s.inputs := by rw [h.1]

/-- No output port shows the buffer (10_state R25, R42). -/
theorem SameButBuffer.outPorts_eq : outPorts s' = outPorts s := by
  rw [h.1]
  rfl

theorem SameButBuffer.mapHost (g : HostAgent → HostAgent) : SameButBuffer (mapHost g s) (mapHost g s') :=
  ⟨congrArg (Machine.mapHost g) h.1, h.2⟩

theorem SameButBuffer.takeStimulus : SameButBuffer (takeStimulus s) (takeStimulus s') :=
  ⟨congrArg Machine.takeStimulus h.1, h.2⟩

theorem SameButBuffer.nextStimulus_eq : nextStimulus s' = nextStimulus s := by
  rw [nextStimulus, nextStimulus, h.inputs_eq]

theorem SameButBuffer.resetEvent : SameButBuffer (resetEvent s) (resetEvent s') := by
  obtain ⟨hrx, htx, hhost, hin⟩ := sameButBuffer_iff.mp h
  exact sameButBuffer_iff.mpr ⟨hrx.resetRx, congrArg resetTx htx, congrArg newSession hhost, hin⟩

theorem SameButBuffer.afterEvents (p : Ports) : SameButBuffer (afterEvents p s) (afterEvents p s') := by
  obtain ⟨hrx, htx, hhost, hin⟩ := sameButBuffer_iff.mp h
  exact sameButBuffer_iff.mpr ⟨hrx.rxEdge p, congrArg (txEdge p) htx, hhost, hin⟩

theorem SameButBuffer.edgeResult (p : Ports) : SameButBuffer (edgeResult p s) (edgeResult p s') := by
  have hev := h.afterEvents (drivenPorts p s.host)
  rw [Machine.edgeResult, Machine.edgeResult, h.host_eq, h.tx_eq, hev.outPorts_eq]
  exact hev.mapHost _

theorem SameButBuffer.clockEdge (p : Ports) : SameOutcome (clockEdge p s) (clockEdge p s') := by
  cases hrst : p.rst
  · cases hconf : portConflict p s.host
    · rw [clockEdge_eq hrst hconf, clockEdge_eq hrst (h.host_eq ▸ hconf)]
      exact h.edgeResult p
    · rw [clockEdge_of_conflict hrst hconf, clockEdge_of_conflict hrst (h.host_eq ▸ hconf)]
      exact rfl
  · rw [clockEdge_of_rst hrst, clockEdge_of_rst hrst]
    exact h.resetEvent

/-- A host call is decided by the host alone (42_host_session R201). -/
theorem SameButBuffer.hostCall (c : HostCall) : SameOutcome (hostCall c s) (hostCall c s') := by
  have hhost := h.host_eq
  by_cases hclosed : s.host.session = .closed
  · rw [hostCall_closed c hclosed, hostCall_closed c (hhost ▸ hclosed)]
    exact h.mapHost _
  · by_cases hidle : s.host.task = .idle
    · rw [hostCall_open c hclosed hidle, hostCall_open c (hhost ▸ hclosed) (hhost ▸ hidle), hhost]
      split
      · exact h.mapHost _
      · exact rfl
    · rw [hostCall_inProgress c hclosed hidle, hostCall_inProgress c (hhost ▸ hclosed) (hhost ▸ hidle)]
      exact rfl

/-- The host sees the outputs alone, so two open sessions note the same and two closed ones refuse the same. -/
theorem SameButBuffer.hostLook (l : Look) : SameOutcome (hostLook l s) (hostLook l s') := by
  have hsee : lookAt l s' = lookAt l s := by simp only [lookAt, h.outPorts_eq]
  unfold Machine.hostLook
  rw [h.host_eq, hsee]
  split
  · exact rfl
  · exact h.mapHost _

theorem SameButBuffer.hostReadF : SameOutcome (hostReadF s) (hostReadF s') := by
  have hsee : readOfF s' = readOfF s := by simp only [readOfF, h.outPorts_eq]
  unfold Machine.hostReadF
  rw [h.host_eq, hsee]
  split
  · exact rfl
  · exact h.mapHost _

end SameButBuffer

/-- Settles O40: whatever the stimulus, neither the units' events nor the host see the buffer beyond the received
bytes. -/
theorem bufferResetContentsUnobservable : Obligations.BufferResetContentsUnobservable := by
  intro s s' h
  rw [step, step, h.nextStimulus_eq]
  cases nextStimulus s with
  | edge p => exact h.takeStimulus.clockEdge p
  | call c => exact h.takeStimulus.hostCall c
  | look l => exact h.takeStimulus.hostLook l
  | readF => exact h.takeStimulus.hostReadF

end Sys2Proof.Machine
end

section
/-! Every edge answers, and the events and edges of the two units write a unit each (10_state R22, R44, R48). -/

namespace Sys2Proof.Machine

/-- Settles O28: an edge is a reset or the events of both units, and both answer. -/
theorem everyEdgeStepsOn : Obligations.EveryEdgeStepsOn := by
  intro p s hconf
  cases hrst : p.rst
  · exact ⟨_, clockEdge_eq hrst hconf⟩
  · exact ⟨_, clockEdge_of_rst hrst s⟩

/-- Settles O30: an RX event is a change of the RX unit, a TX event one of the TX unit. -/
theorem eventsWriteTheirUnitAlone : Obligations.EventsWriteTheirUnitAlone := by
  intro e s t h
  constructor
  · intro he
    rw [handle_rxEvent he] at h
    cases h
    exact ⟨rfl, rfl, rfl⟩
  · intro he
    rw [handle_txEvent he] at h
    cases h
    exact ⟨rfl, rfl, rfl⟩

/-! ### The one event the procedure names -/

theorem rxEventOf_abort {p : Ports} (h : p.rxAbort = true) : rxEventOf p = some .rxAbort := if_pos h

theorem rxEventOf_byte {p : Ports} (ha : p.rxAbort = false) (hv : p.rxValid = true) :
    rxEventOf p = some (.rxByte p.rxData) := by
  simp [rxEventOf, ha, hv]

theorem rxEventOf_none {p : Ports} (ha : p.rxAbort = false) (hv : p.rxValid = false) : rxEventOf p = none := by
  simp [rxEventOf, ha, hv]

theorem txEventOf_abort {p : Ports} (h : p.txAbort = true) : txEventOf p true = some .txAbort := if_pos h

theorem txEventOf_accept {p : Ports} (ha : p.txAbort = false) (hr : p.txReady = true) :
    txEventOf p true = some .txAccept := by
  simp [txEventOf, ha, hr]

theorem txEventOf_busy_none {p : Ports} (ha : p.txAbort = false) (hr : p.txReady = false) :
    txEventOf p true = none := by
  simp [txEventOf, ha, hr]

theorem txEventOf_request {p : Ports} (h : p.cmdValid = true) : txEventOf p false = some (.cmdReq p.cmdSel) := if_pos h

theorem txEventOf_idle_none {p : Ports} (h : p.cmdValid = false) : txEventOf p false = none := by
  simp [txEventOf, h]

/-- The event of the RX unit leaves there what the event alone leaves after the strobes are cleared. -/
theorem rxEdge_eq_handle {p : Ports} {e : InEvent} (h : rxEventOf p = some e) (s : State) :
    ∃ u, handle e (clearStrobes s) = .next u ∧ rxEdge p s.rx = u.rx :=
  ⟨_, handle_rxEvent (isRxEvent_of_rxEventOf h) _, rxEdge_of_event h s.rx⟩

/-- The event of the TX unit leaves there what the event alone leaves after the strobes are cleared. -/
theorem txEdge_eq_handle {p : Ports} {e : InEvent} {s : State} (h : txEventOf p s.tx.busy = some e) :
    ∃ u, handle e (clearStrobes s) = .next u ∧ txEdge p s.tx = u.tx :=
  ⟨_, handle_txEvent (isTxEvent_of_txEventOf h) _, txEdge_of_event h⟩

/-- Settles O56: each unit is the edge of that unit, whose event the ports name. -/
theorem edgeFollowsPortProcedure : Obligations.EdgeFollowsPortProcedure := by
  intro p s hrst hconf
  refine ⟨_, clockEdge_eq hrst hconf, edgeResult_inputs p s, ?_⟩
  simp only [edgeResult_rx, edgeResult_tx]
  have hbusy := txEventOf_drivenPorts_busy p s.host
  refine ⟨?rxAbort, ?rxByte, ?rxNone, ?txAbort, ?txAccept, ?txNone, ?request, ?noRequest⟩
  case rxAbort => exact fun ha => rxEdge_eq_handle (rxEventOf_abort ha) s
  case rxByte => exact fun ha hv => rxEdge_eq_handle (rxEventOf_byte ha hv) s
  case rxNone => exact fun ha hv => rxEdge_of_none (rxEventOf_none ha hv) s.rx
  case txAbort => exact fun hb ha => txEdge_eq_handle (hb ▸ (hbusy.trans (txEventOf_abort ha)))
  case txAccept => exact fun hb ha hr => txEdge_eq_handle (hb ▸ (hbusy.trans (txEventOf_accept ha hr)))
  case txNone => exact fun hb ha hr => txEdge_of_none (hb ▸ (hbusy.trans (txEventOf_busy_none ha hr)))
  case request => exact fun hb hv => txEdge_eq_handle (hb ▸ txEventOf_request hv)
  case noRequest => exact fun hb hv => txEdge_of_none (hb ▸ txEventOf_idle_none hv)

end Sys2Proof.Machine
end

section
/-! What the elements of the units can become over one step (10_state R24, R26, R29, R32). -/

namespace Sys2Proof.Machine

/-! ### The reading -/

/-- A whole 32-byte group makes a reading with its `FrameDone`, or leaves the reading alone (R163, R165). -/
theorem frameEffect_reading (bs : Frame) (u : RxUnit) :
    (OutEvent.frameDone ∈ (frameEffect bs u).out ∧ (frameEffect bs u).present = true)
      ∨ ((frameEffect bs u).f = u.f ∧ (frameEffect bs u).chkValid = u.chkValid
        ∧ (frameEffect bs u).present = u.present) := by
  rcases frameEffect_cases bs u with e | e <;> rw [e]
  · exact .inl ⟨by simp, rfl⟩
  · exact .inr ⟨rfl, rfl, rfl⟩

/-- An edge makes a reading with its `FrameDone`, or leaves the reading alone (R26). -/
theorem rxEdge_reading (p : Ports) (u : RxUnit) :
    (OutEvent.frameDone ∈ (rxEdge p u).out ∧ (rxEdge p u).present = true)
      ∨ ((rxEdge p u).f = u.f ∧ (rxEdge p u).chkValid = u.chkValid ∧ (rxEdge p u).present = u.present) := by
  rcases rxEdge_cases p u with e | e | ⟨-, e⟩ | ⟨-, e⟩ <;> rw [e]
  · exact .inr ⟨rfl, rfl, rfl⟩
  · exact .inr ⟨rfl, rfl, rfl⟩
  · exact .inr ⟨rfl, rfl, rfl⟩
  · exact frameEffect_reading _ _

/-- Over a step that is no reset the reading comes new with its `FrameDone`, or stays as it was (R26, R76). -/
theorem step_reading {s t : State} (h : step s = .next t) (hreset : nextIsReset s = false) :
    (OutEvent.frameDone ∈ t.rx.out ∧ t.rx.present = true)
      ∨ (t.rx.f = s.rx.f ∧ t.rx.chkValid = s.rx.chkValid ∧ t.rx.present = s.rx.present) := by
  rcases step_units h with ⟨hrx, -⟩ | ⟨hr, -, -⟩ | ⟨p, hrx, -⟩
  · exact .inr (hrx ▸ ⟨rfl, rfl, rfl⟩)
  · exact absurd (hreset.symm.trans hr) (by decide)
  · exact hrx ▸ rxEdge_reading p s.rx

/-- Settles O42: without a `FrameDone` the reading is the old one. -/
theorem readingChangesOnlyAtFrameDone : Obligations.ReadingChangesOnlyAtFrameDone :=
  fun _ _ h hreset hdone => (step_reading h hreset).resolve_left fun hnew => hdone hnew.1

/-- Settles O43: a new reading sets `rd_present`, and an old one keeps it. -/
theorem presentClearedOnlyByReset : Obligations.PresentClearedOnlyByReset := by
  intro s t h hreset hp
  rcases step_reading h hreset with ⟨-, hset⟩ | ⟨-, -, hkept⟩
  · exact hset
  · exact hkept.trans hp

/-! ### The select code -/

/-- A TX event writes the select code by a request alone, which leaves its mark (R32, R135). -/
theorem txEffect_sel (e : InEvent) (u : TxUnit) :
    (txEffect e u).sel = u.sel ∨ (txEffect e u).log = .cmdReq (txEffect e u).sel :: u.log := by
  cases e with
  | cmdReq sel =>
    simp only [txEffect]
    split
    · exact .inl rfl
    · exact .inr rfl
  | txAccept =>
    left
    simp only [txEffect]
    split
    · split <;> rfl
    · rfl
  | txAbort =>
    left
    simp only [txEffect]
    split <;> rfl
  | reset => exact .inl rfl
  | rxByte b => exact .inl rfl
  | rxAbort => exact .inl rfl

/-- An edge writes the select code by a request alone (R32). -/
theorem txEdge_sel (p : Ports) (u : TxUnit) :
    (txEdge p u).sel = u.sel ∨ (txEdge p u).log = .cmdReq (txEdge p u).sel :: u.log := by
  unfold txEdge
  split
  · exact txEffect_sel _ _
  · exact .inl rfl

/-- Settles O44: of what a step can do to the TX unit, only an edge changes the select code without a reset. -/
theorem selectChangesOnlyByRequest : Obligations.SelectChangesOnlyByRequest := by
  intro s t h hreset
  rcases step_units h with ⟨-, htx⟩ | ⟨hr, -, -⟩ | ⟨p, -, htx⟩
  · exact .inl (congrArg TxUnit.sel htx)
  · exact absurd (hreset.symm.trans hr) (by decide)
  · exact htx ▸ txEdge_sel p s.tx

/-! ### The counter -/

@[simp] theorem frameEffect_cnt (bs : Frame) (u : RxUnit) : (frameEffect bs u).cnt = u.cnt := by
  rcases frameEffect_cases bs u with e | e <;> rw [e] <;> rfl

/-- A received byte advances the counter by one modulo 32 (R24, R160). -/
theorem rxEffect_rxByte_cnt (b : Byte) (u : RxUnit) : (rxEffect (.rxByte b) u).cnt = u.cnt + 1 := by
  simp only [rxEffect]
  split
  · next hc => simp [hc]
  · rfl

/-- Settles O45: the counter after a byte does not depend on the byte. -/
theorem byteValuesNeverMoveTheCounter : Obligations.ByteValuesNeverMoveTheCounter :=
  fun b b' s => ⟨_, _, handle_rxEvent rfl s, handle_rxEvent rfl s,
    rxEffect_rxByte_cnt b s.rx, rxEffect_rxByte_cnt b' s.rx⟩

end Sys2Proof.Machine
end

section
/-! The request the host holds on the command port (10_state R45, 42_host_session R209). -/

namespace Sys2Proof.Machine

/-- An accepted request starts the encoder at the edge of its acceptance (R135). -/
theorem txEdge_of_request {p : Ports} {u : TxUnit} (hb : u.busy = false) (hv : p.cmdValid = true) :
    txEdge p u = startCommand p.cmdSel { u with out := [] } := by
  rw [txEdge_of_event (hb ▸ txEventOf_request hv)]
  simp [txEffect, hb]

/-- Settles O49: the request is on the port at every edge until it is accepted. -/
theorem hostRequestHeldUntilAccepted : Obligations.HostRequestHeldUntilAccepted := by
  intro p use s hrst hundriven htask
  have hedge := clockEdge_eq hrst (portConflict_of_undriven s.host hundriven)
  have hreq : hostRequest s.host = some (useSelect s.host.mode use) := by simp only [hostRequest, htask]
  constructor
  · intro hb
    exact ⟨_, hedge, by simp [edgeResult_host, hostObserve, htask, hb]⟩
  · intro hb
    have htx : (edgeResult p s).tx = startCommand (useSelect s.host.mode use) { s.tx with out := [] } := by
      rw [edgeResult_tx, drivenPorts_of_request p hreq]
      exact txEdge_of_request hb rfl
    refine ⟨_, hedge, by simp [edgeResult_host, hostObserve, htask, hb], ?_⟩
    rw [htx]
    refine ⟨rfl, rfl, ?_, ?_, ?_, ?_⟩ <;> rintro rfl
    · cases hmode : s.host.mode <;> simp [useSelect, modeSelect]
    · rfl
    · rfl
    · rfl

end Sys2Proof.Machine
end

section
/-! The meanings of the instructions (R135, R140 to R143, R164, R165): a command is its request, and DATA writes the RX
unit alone. -/

namespace Sys2Proof.Machine

/-- The four commands are the requests of their select codes (R140 to R143). -/
theorem exec_of_selectOf {i : Instr} {sel : BitVec 2} (h : selectOf i = some sel) (s : State) :
    exec i s = requestCommand sel s := by
  cases i <;> cases h <;> rfl

theorem requestCommand_idle (sel : BitVec 2) {s : State} (h : s.tx.busy = false) :
    requestCommand sel s = .next (mapTx (startCommand sel) s) := by
  simp [requestCommand, h]

theorem requestCommand_busy (sel : BitVec 2) {s : State} (h : s.tx.busy = true) : requestCommand sel s = .next s :=
  if_pos h

/-- Settles O7: the writes are those of `startCommand`, and byte 0 of every command is the first start byte. -/
theorem commandRequestStarts : Obligations.CommandRequestStarts := by
  intro i sel s hsel hidle
  exact ⟨_, (exec_of_selectOf hsel s).trans (requestCommand_idle sel hidle), rfl, rfl, rfl, rfl⟩

/-- Settles O8: the request of a busy encoder changes nothing. -/
theorem commandWaitsWhileBusy : Obligations.CommandWaitsWhileBusy :=
  fun _ sel s hsel hbusy => (exec_of_selectOf hsel s).trans (requestCommand_busy sel hbusy)

/-- Settles O13: a request waits or changes the TX unit, whose output list it keeps. -/
theorem commandsLeaveTheRestUnchanged : Obligations.CommandsLeaveTheRestUnchanged := by
  intro i sel s t hsel h
  rw [exec_of_selectOf hsel] at h
  rcases requestCommand_cases h with ⟨-, rfl⟩ | ⟨-, rfl⟩
  · exact ⟨rfl, fun _ => rfl, rfl, rfl, rfl⟩
  · exact ⟨rfl, fun _ => rfl, rfl, rfl, rfl⟩

/-- DATA is a reading and its `FrameDone` (R164, R165). -/
theorem exec_data (ws : Fields) (s : State) :
    exec (.data ws) s = .next (mapRx (fun u => emitRx .frameDone (loadReading ws (checksumFlag ws) u)) s) := rfl

/-- Settles O17: neither the reading nor its `FrameDone` is read by any other part. -/
theorem dataLeavesTheRestUnchanged : Obligations.DataLeavesTheRestUnchanged := by
  intro ws s t h
  rw [exec_data] at h
  cases h
  exact ⟨rfl, rfl, rfl, fun _ => rfl, rfl, rfl, rfl⟩

end Sys2Proof.Machine
end

section
/-! The state after reset (10_state R50). -/

namespace Sys2Proof.Machine

/-- Settles O26: the reset state is a literal whose outputs evaluate. -/
theorem resetStateValues : Obligations.ResetStateValues :=
  ⟨rfl, Fields.get_ofFn _, rfl, rfl, rfl, rfl, rfl, rfl, rfl, rfl, rfl, rfl, rfl, fun _ => rfl⟩

theorem txInv_reset : TxInv State.reset.tx := by decide

theorem rxInv_reset : RxInv State.reset.rx :=
  ⟨reset_memory_wf, fun _ ha => absurd ha BitVec.not_lt_zero, fun _ => ⟨rfl, rfl⟩, fun hp => absurd hp (by decide),
    by decide⟩

theorem hostInv_reset : HostInv State.reset := ⟨rfl, fun _ h => nomatch h⟩

/-- Settles O39: idle units with empty histories, an empty buffer and an idle host. -/
theorem invariantsHoldAtReset : Obligations.InvariantsHoldAtReset := ⟨txInv_reset, rxInv_reset, hostInv_reset⟩

end Sys2Proof.Machine
end

section
/-! Simultaneous inputs (10_state R44, R47; 60_exceptions R233): an edge sees its ports through `rst`, the command port
and the one event of each unit alone. -/

namespace Sys2Proof.Machine

/-- Ports that agree in `rst`, on the command port and in the RX event, and while a command is sent in the TX event, make
the same edge. -/
theorem clockEdge_congr {p q : Ports} {s : State} (hrst : p.rst = q.rst) (hvalid : p.cmdValid = q.cmdValid)
    (hsel : p.cmdSel = q.cmdSel) (hrx : rxEventOf p = rxEventOf q)
    (hbusy : s.tx.busy = true → txEventOf p true = txEventOf q true) : clockEdge p s = clockEdge q s := by
  have hconf : portConflict p s.host = portConflict q s.host := by rw [portConflict, portConflict, hvalid]
  have htx : txEventOf (drivenPorts p s.host) s.tx.busy = txEventOf (drivenPorts q s.host) s.tx.busy := by
    cases hb : s.tx.busy
    · simp [txEventOf, drivenPorts_cmdValid, drivenPorts_cmdSel, hvalid, hsel]
    · rw [txEventOf_drivenPorts_busy, txEventOf_drivenPorts_busy, hbusy hb]
  simp only [clockEdge, edgeEvents, hrst, hconf, rxEventOf_drivenPorts, hrx, htx]

/-- Settles O27: the event that wins hides the inputs it beats. -/
theorem simultaneousInputsPriority : Obligations.SimultaneousInputsPriority := by
  intro p s
  refine ⟨fun hrst => clockEdge_of_rst hrst s, ?rxSame, ?rxFailure, ?txSame, ?txFailure, ?idleSame⟩
  case rxSame =>
    intro ha
    have hsame : rxEventOf { p with rxValid := false, rxData := 0 } = some .rxAbort := rxEventOf_abort ha
    exact clockEdge_congr rfl rfl rfl ((rxEventOf_abort ha).trans hsame.symm) fun _ => rfl
  case rxFailure =>
    intro hrst hconf ha
    exact ⟨_, clockEdge_eq hrst hconf, by rw [edgeResult_rx, rxEdge_of_event (rxEventOf_abort ha)]; rfl⟩
  case txSame =>
    intro ha
    have hsame : txEventOf { p with txReady := false } true = some .txAbort := txEventOf_abort ha
    exact clockEdge_congr rfl rfl rfl rfl fun _ => (txEventOf_abort ha).trans hsame.symm
  case txFailure =>
    intro hrst hconf ha hb
    refine ⟨_, clockEdge_eq hrst hconf, ?_⟩
    rw [edgeResult_tx, txEdge_of_event (hb ▸ (txEventOf_drivenPorts_busy p s.host).trans (txEventOf_abort ha))]
    simp [txEffect, hb, emitTx, endCommand]
  case idleSame =>
    exact fun hidle => clockEdge_congr rfl rfl rfl rfl fun hb => absurd (hidle.symm.trans hb) (by decide)

end Sys2Proof.Machine
end

section
/-! A quiet edge (10_state R43, R239, R282): no event of a unit, and nothing for the host to react to. -/

namespace Sys2Proof.Machine

/-- Nothing presented is no event of either unit. -/
theorem afterEvents_quiet (s : State) : afterEvents Ports.quiet s = clearStrobes s := by
  have htx : txEventOf Ports.quiet s.tx.busy = none := by cases s.tx.busy <;> rfl
  rw [afterEvents, rxEdge_of_none rfl, txEdge_of_none htx]
  rfl

/-- With the strobes at 0 and no request held the host waits (R204, 60_exceptions R239). -/
theorem hostObserve_cleared (wasBusy : Bool) {s : State} (hreq : hostRequest s.host = none) :
    hostObserve wasBusy (outPorts (clearStrobes s)) s.host = s.host := by
  cases htask : s.host.task with
  | idle => simp only [hostObserve, htask]
  | reading => simp [hostObserve, htask, readOutcome, outPorts, framingErrorOf, readErrorOf]
  | command use phase =>
    cases phase with
    | requesting => simp [hostRequest, htask] at hreq
    | awaiting => simp [hostObserve, htask, outPorts, commandErrorOf]

/-- Settles O31: no event of a unit, and no strobe for the host. -/
theorem quietEdgeOnlyClearsStrobes : Obligations.QuietEdgeOnlyClearsStrobes := by
  intro s hreq
  have hconf : portConflict Ports.quiet s.host = false := portConflict_of_undriven s.host rfl
  rw [clockEdge_eq rfl hconf, edgeResult, drivenPorts_of_no_request _ hreq, afterEvents_quiet, mapHost,
    clearStrobes_host, hostObserve_cleared s.tx.busy hreq]
  rfl

end Sys2Proof.Machine
end

section
/-! A step and the instruction it runs (10_state R44, 30_encoding R101, 41_frame_parser R160, R161). -/

namespace Sys2Proof.Machine

/-- Settles O33: the request is the one event of the edge, and a request is the execution of its command. -/
theorem stepRunsRequestedCommand : Obligations.StepRunsRequestedCommand := by
  intro s p rest hin hrst hconf hrx hidle hvalid
  have htx : txEventOf (drivenPorts p s.host) (takeStimulus s).tx.busy
      = some (.cmdReq (drivenPorts p s.host).cmdSel) := by
    rw [takeStimulus_tx, hidle]
    exact txEventOf_request hvalid
  rw [step_of_edge hin, clockEdge_eq_events (s := takeStimulus s) hrst hconf, takeStimulus_host,
    edgeEvents_of_no_rx ((rxEventOf_drivenPorts p s.host).trans hrx), htx, takeStimulus_tx, hidle]
  rfl

/-- Settles O34: the byte is the one event of the edge, and the frame it completes is executed. -/
theorem stepRunsReceivedFrame : Obligations.StepRunsReceivedFrame := by
  intro s p inputs i rest hin hrst hconf habort hvalid hcnt htx hdec
  have hrx : rxEventOf (drivenPorts p s.host) = some (.rxByte p.rxData) :=
    (rxEventOf_drivenPorts p s.host).trans (rxEventOf_byte habort hvalid)
  have hbyte : rxByte p.rxData (clearStrobes (takeStimulus s)) = exec i
      (mapRx (fun u => setRxCnt 0 (memWrite1 u.cnt p.rxData u)) (clearStrobes (takeStimulus s))) :=
    rxByte_of_decode hcnt hdec
  have hat31 : mapRx (fun u => setRxCnt 0 (memWrite1 u.cnt p.rxData u)) (clearStrobes (takeStimulus s))
      = mapRx (fun u => setRxCnt 0 (memWrite1 31 p.rxData u)) (clearStrobes (takeStimulus s)) := by
    simp only [mapRx, clearStrobes_rx, takeStimulus_rx, hcnt]
  rw [step_of_edge hin, clockEdge_eq_events (s := takeStimulus s) hrst hconf, takeStimulus_host,
    edgeEvents_of_no_tx (s := takeStimulus s) htx, hrx, ← hat31, ← hbyte]
  rfl

end Sys2Proof.Machine
end

section
/-! The strobes in the cycle after their event (10_state R42, R43), and what the host sees at the level outputs (R27,
42_host_session R209). -/

namespace Sys2Proof.Machine

/-! ### The outputs after one event of a unit -/

/-- The first two bytes of a received frame are those of the buffer (R160). -/
theorem receivedFrame_getD_zero (b : Byte) (u : RxUnit) : (receivedFrame b u).getD 0 0 = memRead1 u 0 := rfl

theorem receivedFrame_getD_one (b : Byte) (u : RxUnit) : (receivedFrame b u).getD 1 0 = memRead1 u 1 := rfl

/-- Wrong start bytes discard the frame (R163). -/
theorem frameEffect_of_bad_start {bs : Frame} (h : ¬(bs.getD 0 0 = Config.start0 ∧ bs.getD 1 0 = Config.start1))
    (u : RxUnit) : frameEffect bs u = emitRx (.raised (.framingError (wordAt bs 0))) u := by
  unfold frameEffect
  rcases decode_inbound_cases bs with ⟨-, -, h0, h1⟩ | ⟨hd, -⟩ | ⟨hd, -⟩
  · exact absurd ⟨h0, h1⟩ h
  · rw [hd]
  · rw [hd]

/-- The byte that completes a frame with wrong start bytes stores itself and raises the error with them (R160, R163). -/
theorem rxEffect_framing_error (b : Byte) {u : RxUnit} (hc : u.cnt = 31)
    (hstart : ¬(memRead1 u 0 = 0x42 ∧ memRead1 u 1 = 0x4D)) :
    rxEffect (.rxByte b) u = emitRx (.raised (.framingError (be16 (memRead1 u 0) (memRead1 u 1))))
      (setRxCnt 0 (memWrite1 u.cnt b u)) := by
  have heffect : rxEffect (.rxByte b) u = frameEffect (receivedFrame b u) (setRxCnt 0 (memWrite1 u.cnt b u)) :=
    if_pos hc
  rw [heffect, frameEffect_of_bad_start (by exact hstart)]
  rfl

/-- A byte before the last is stored and the counter advances (R160). -/
theorem rxEffect_store (b : Byte) {u : RxUnit} (hc : u.cnt ≠ 31) :
    rxEffect (.rxByte b) u = setRxCnt (u.cnt + 1) (memWrite1 u.cnt b u) := if_neg hc

/-- The flag is the checksum comparison (R164). -/
theorem checksumFlag_iff (ws : Fields) : checksumFlag ws = true ↔ sum16 (coveredBytes ws) = ws.checksum := by
  simp [checksumFlag]

/-- The seventh acceptance adds its byte and `CmdDone` to the strobes (R136). -/
theorem txEffect_txAccept_out_last {u : TxUnit} (hb : u.busy = true) (hc : u.cnt = 6) :
    (txEffect .txAccept u).out = u.out ++ [.txByte (currentCmdByte u), .cmdDone] := by
  simp [txEffect, hb, hc]

/-- An earlier acceptance adds its byte alone (R136). -/
theorem txEffect_txAccept_out_earlier {u : TxUnit} (hb : u.busy = true) (hc : u.cnt ≠ 6) :
    (txEffect .txAccept u).out = u.out ++ [.txByte (currentCmdByte u)] := by
  simp only [txEffect, hb, if_true, if_neg hc]
  rfl

/-- A write failure while sending adds its exception to the strobes (R137). -/
theorem txEffect_txAbort_out {u : TxUnit} (hb : u.busy = true) :
    (txEffect .txAbort u).out = u.out ++ [.raised (.commandWriteError u.cnt)] := by
  simp [txEffect, hb]

/-- Settles O32: the strobes are cleared, then the one event of the unit emits at most its own. -/
theorem strobesCarryTheirValues : Obligations.StrobesCarryTheirValues := by
  intro s
  refine ⟨⟨rfl, rfl, rfl, rfl, rfl⟩, ?reading, ?framing, ?store, ?failure, ?accept, ?writeFailure⟩
  case reading => exact fun ws => ⟨_, exec_data ws _, rfl, rfl, rfl, rfl, rfl, checksumFlag_iff ws⟩
  case framing =>
    intro b hc hstart
    refine ⟨_, handle_rxEvent rfl _, ?_⟩
    have heffect := rxEffect_framing_error b (u := (clearStrobes s).rx) hc hstart
    simp only [outPorts, mapRx_rx, heffect]
    exact ⟨rfl, rfl, rfl, rfl, rfl, rfl⟩
  case store =>
    intro b hc
    refine ⟨_, handle_rxEvent rfl _, ?_⟩
    simp only [outPorts, mapRx_rx, rxEffect_store b (u := (clearStrobes s).rx) hc]
    exact ⟨rfl, rfl, rfl⟩
  case failure => exact ⟨_, handle_rxEvent rfl _, rfl, rfl, rfl, rfl, rfl, rfl⟩
  case accept =>
    intro hb
    refine ⟨_, handle_txEvent rfl _, ?_⟩
    by_cases hc : s.tx.cnt = 6
    · simp only [outPorts, mapTx_tx, txEffect_txAccept_out_last (u := (clearStrobes s).tx) hb hc]
      exact ⟨iff_of_true rfl hc, rfl⟩
    · simp only [outPorts, mapTx_tx, txEffect_txAccept_out_earlier (u := (clearStrobes s).tx) hb hc]
      exact ⟨iff_of_false (by simp) hc, rfl⟩
  case writeFailure =>
    intro hb
    refine ⟨_, handle_txEvent rfl _, ?_⟩
    simp only [outPorts, mapTx_tx, txEffect_txAbort_out (u := (clearStrobes s).tx) hb]
    exact ⟨rfl, rfl⟩

/-! ### What the host sees -/

/-- A look at a field shows it once there is a reading (R27, R209). -/
theorem lookAt_field_present (k : Fin 15) {s : State} (h : s.rx.present = true) :
    lookAt (.field k) s = .field k (s.rx.f.get k) := if_pos h

/-- A look at a field before the first reading gives no value (R27; log entry 16). -/
theorem lookAt_field_absent (k : Fin 15) {s : State} (h : s.rx.present = false) :
    lookAt (.field k) s = .noReading k := by
  simp [lookAt, outPorts, h]

/-- Settles O54: before `close` a look and a read of `F` are noted, with what `rd_present` lets them show. -/
theorem lookNeedsAReading : Obligations.LookNeedsAReading := by
  intro k s hopen
  refine ⟨?fieldAbsent, ?fieldPresent, ⟨_, hostLook_open .chkValid hopen, rfl⟩,
    ⟨_, hostLook_open .present hopen, rfl⟩, ?readPresent, ?readAbsent⟩
  case fieldAbsent =>
    intro hp
    exact ⟨_, hostLook_open (.field k) hopen, by rw [lookAt_field_absent k hp]; rfl⟩
  case fieldPresent =>
    intro hp
    exact ⟨_, hostLook_open (.field k) hopen, by rw [lookAt_field_present k hp]; rfl⟩
  case readPresent =>
    intro hp
    exact ⟨_, hostReadF_open hopen, by rw [readOfF_present hp]; rfl⟩
  case readAbsent =>
    intro hp
    exact ⟨_, hostReadF_open hopen, by rw [readOfF_absent hp]; rfl⟩

end Sys2Proof.Machine
end

section
/-! The decoder inverts the encoder in both directions (30_encoding R100, R102, R103), and the frames of the field tables
R91 and R92 are the encodings. -/

namespace Sys2Proof

/-! ### Decoding an encoding -/

/-- The table's row of an outbound instruction is the one with its encoding (R100, R131). -/
theorem commandTable_find_encode {i : Instr} (h : i.direction = .hostToSensor) :
    commandTable.find? (fun row => row.1 == encode i) = some (encode i, i) := by
  cases i with
  | setPassive => decide
  | setActive => decide
  | sleep => decide
  | wake => decide
  | data ws => cases h

/-- Every row of the table is the encoding of its outbound instruction (R100, R131). -/
theorem encode_of_mem_commandTable :
    ∀ row ∈ commandTable, row.2.direction = .hostToSensor ∧ encode row.2 = row.1 := by decide

/-- An encoding has the length of its direction's format (R90). -/
theorem encode_length (i : Instr) : (encode i).length = Machine.frameLength i.direction := by
  cases i <;> rfl

/-- The words of a frame of fifteen words are those words (R69, R93). -/
theorem fieldsOf_encode_data (ws : Fields) (rest : List Byte) : fieldsOf (encode (.data ws) ++ rest) = ws := by
  simp [fieldsOf, Fields.ofFn, wordAt, encode, coveredBytes, payloadBytes, wordBytes, Config.payloadOff]

/-- The encoding of an outbound instruction decodes to it (R103). -/
theorem decodeCommand_encode {i : Instr} (h : i.direction = .hostToSensor) (rest : List Byte) :
    decodeCommand (encode i ++ rest) = .ok i rest := by
  have hlen : (encode i).length = Config.cmdLen := by rw [encode_length, h]; rfl
  have hlong : ¬(encode i ++ rest).length < Config.cmdLen := by simp [hlen]
  rw [decodeCommand, if_neg hlong, List.take_left' hlen, List.drop_left' hlen, commandTable_find_encode h]

/-- The encoding of a data frame decodes to its words (R102, R103). -/
theorem decodeData_encode (ws : Fields) (rest : List Byte) :
    decodeData (encode (.data ws) ++ rest) = .ok (.data ws) rest := by
  have hlen : (encode (.data ws)).length = Config.frameLen := encode_length _
  have hlong : ¬(encode (.data ws) ++ rest).length < Config.frameLen := by simp [hlen]
  rw [decodeData, if_neg hlong, if_pos ⟨rfl, rfl⟩, fieldsOf_encode_data, List.drop_left' hlen]

/-- The encoding of an instruction decodes to it in its direction, whatever bytes follow. -/
theorem decode_encode (i : Instr) (rest : List Byte) : decode i.direction (encode i ++ rest) = .ok i rest := by
  cases i with
  | data ws => exact decodeData_encode ws rest
  | setPassive => exact decodeCommand_encode rfl rest
  | setActive => exact decodeCommand_encode rfl rest
  | sleep => exact decodeCommand_encode rfl rest
  | wake => exact decodeCommand_encode rfl rest

/-- Settles O1: a command's bytes are its row of the table, and the words of a data frame's bytes are its operands. -/
theorem decodeEncodeRoundTrip : Obligations.DecodeEncodeRoundTrip := decode_encode

/-! ### Encoding what was decoded -/

/-- The first 32 bytes of a group with the start bytes encode the words read from it (R92, R94). -/
theorem encode_data_fieldsOf {bs : List Byte} (hlen : Config.frameLen ≤ bs.length)
    (h0 : bs.getD 0 0 = Config.start0) (h1 : bs.getD 1 0 = Config.start1) :
    encode (.data (fieldsOf bs)) = bs.take Config.frameLen := by
  have hbytes : encode (.data (fieldsOf bs)) = (List.range Config.frameLen).map fun a => bs.getD a 0 := by
    simp only [encode, coveredBytes, payloadBytes, wordBytes, fieldsOf, Fields.ofFn, wordAt, hiByte_be16, loByte_be16,
      ← h0, ← h1]
    rfl
  rw [hbytes]
  apply List.ext_getElem
  · simp [hlen]
  · intro a ha ha'
    have hlt : a < bs.length := by simp at ha'; omega
    simp [hlt]

/-- An outbound answer of the decoder is the encoding it read, and what follows it (R103). -/
theorem encode_of_decodeCommand {bs rest : List Byte} {i : Instr} (h : decodeCommand bs = .ok i rest) :
    i.direction = .hostToSensor ∧ bs = encode i ++ rest := by
  unfold decodeCommand at h
  split at h
  · cases h
  · split at h
    · next row hrow =>
      cases h
      obtain ⟨hdir, henc⟩ := encode_of_mem_commandTable row (List.mem_of_find?_eq_some hrow)
      have hmatch : row.1 = bs.take Config.cmdLen := by simpa using List.find?_some hrow
      exact ⟨hdir, by rw [henc, hmatch, List.take_append_drop]⟩
    · cases h

/-- An inbound answer of the decoder is the encoding it read, and what follows it (R102, R103). -/
theorem encode_of_decodeData {bs rest : List Byte} {i : Instr} (h : decode .sensorToHost bs = .ok i rest) :
    i.direction = .sensorToHost ∧ bs = encode i ++ rest := by
  rcases decode_inbound_cases bs with ⟨hd, hlen, h0, h1⟩ | ⟨hd, -⟩ | ⟨hd, -⟩ <;> rw [hd] at h <;> cases h
  exact ⟨rfl, by rw [encode_data_fieldsOf hlen h0 h1, List.take_append_drop]⟩

/-- The decoder reads an instruction exactly from its encoding in its direction, and leaves what follows (R103). -/
theorem decode_eq_ok_iff {dir : Direction} {bs rest : List Byte} {i : Instr} :
    decode dir bs = .ok i rest ↔ i.direction = dir ∧ bs = encode i ++ rest := by
  constructor
  · intro h
    cases dir with
    | hostToSensor => exact encode_of_decodeCommand h
    | sensorToHost => exact encode_of_decodeData h
  · rintro ⟨rfl, rfl⟩
    exact decode_encode i rest

/-- Settles O2: the bytes the decoder matched, or took apart, are the encoding of its answer. -/
theorem decodedBytesAreTheEncoding : Obligations.DecodedBytesAreTheEncoding := fun _ _ _ _ => decode_eq_ok_iff.mp

/-! ### The frames of the field tables -/

/-- Every encoding is a frame of its direction's field table (R91, R92). -/
theorem encode_wellFormed (i : Instr) : Frame.wellFormed i.direction (encode i) = true := by
  cases i with
  | setPassive => exact Laws.EncodeWellFormed.setPassive
  | setActive => exact Laws.EncodeWellFormed.setActive
  | sleep => exact Laws.EncodeWellFormed.sleep
  | wake => exact Laws.EncodeWellFormed.wake
  | data ws => exact Laws.EncodeWellFormed.data ws

/-- Two bytes with the value of a word are its high and low byte (R60, R94). -/
theorem bytes_eq_of_toNat {hi lo : Byte} {w : Word} (h : w.toNat = 256 * hi.toNat + lo.toNat) :
    hi = hiByte w ∧ lo = loByte w := by
  have hw : w = be16 hi lo := BitVec.eq_of_toNat_eq (h.trans (be16_toNat hi lo).symm)
  rw [hw, hiByte_be16, loByte_be16]
  exact ⟨rfl, rfl⟩

/-- The encoding of the command a select code names is the frame of that code (R101, R131). -/
theorem encode_decodeSelect (sel : BitVec 2) : encode (decodeSelect sel) = commandFrame sel := by
  revert sel; decide

/-- Every select code names an outbound instruction (R101). -/
theorem decodeSelect_direction (sel : BitVec 2) : (decodeSelect sel).direction = .hostToSensor := by
  revert sel; decide

/-- The command checksum is the plain sum of the five bytes it covers (R131, R134). -/
theorem chk5_toNat (sel : BitVec 2) : (chk5 sel).toNat = Frame.byteSum (cmdHead sel) := by
  revert sel; decide

/-- Bytes 0 to 4 of a command with their checksum behind them are the frame of its select code (R131). -/
theorem commandFrame_of_head {sel : BitVec 2} {hi lo : Byte}
    (h : Frame.byteSum (cmdHead sel) = 256 * hi.toNat + lo.toNat) : cmdHead sel ++ [hi, lo] = commandFrame sel := by
  obtain ⟨rfl, rfl⟩ := bytes_eq_of_toNat ((chk5_toNat sel).trans h)
  rfl

/-- The command id and the value of the field table are those of one select code (R91, R101). -/
theorem exists_cmdHead {id value : Byte} (hid : id = Config.cmdIdMode ∨ id = Config.cmdIdPower)
    (hvalue : value = 0x00 ∨ value = 0x01) :
    ∃ sel, cmdHead sel = [Config.start0, Config.start1, id, 0x00, value] := by
  rcases hid with rfl | rfl <;> rcases hvalue with rfl | rfl
  · exact ⟨0, by decide⟩
  · exact ⟨1, by decide⟩
  · exact ⟨2, by decide⟩
  · exact ⟨3, by decide⟩

/-- A frame of the outbound field table is the frame of a select code (R91, R106). -/
theorem commandFrame_of_commandOk {bs : Frame} (h : Frame.commandOk bs = true) : ∃ sel, bs = commandFrame sel := by
  simp only [Frame.commandOk, Frame.startOk, Bool.and_eq_true, Bool.or_eq_true, beq_iff_eq] at h
  obtain ⟨⟨⟨⟨⟨hlen, h0, h1⟩, hid⟩, hzero⟩, hvalue⟩, hsum⟩ := h
  obtain ⟨sel, hhead⟩ := exists_cmdHead hid hvalue
  have hbytes : bs = [bs.getD 0 0, bs.getD 1 0, bs.getD 2 0, bs.getD 3 0, bs.getD 4 0]
      ++ [bs.getD 5 0, bs.getD 6 0] := by
    match bs, hlen with
    | [_, _, _, _, _, _, _], _ => rfl
  rw [h0, h1, hzero, ← hhead] at hbytes
  have htake : bs.take Config.txChkCover = cmdHead sel := by rw [hbytes]; rfl
  rw [htake] at hsum
  exact ⟨sel, hbytes.trans (commandFrame_of_head hsum)⟩

/-- The frames of a direction's field table are the encodings of its instructions (R91, R92). -/
theorem wellFormed_iff_encode {dir : Direction} {bs : Frame} :
    Frame.wellFormed dir bs = true ↔ ∃ i, i.direction = dir ∧ bs = encode i := by
  constructor
  · intro h
    cases dir with
    | hostToSensor =>
      obtain ⟨sel, rfl⟩ := commandFrame_of_commandOk h
      exact ⟨decodeSelect sel, decodeSelect_direction sel, (encode_decodeSelect sel).symm⟩
    | sensorToHost =>
      simp only [Frame.wellFormed, Frame.dataOk, Frame.startOk, Bool.and_eq_true, beq_iff_eq] at h
      obtain ⟨hlen, h0, h1⟩ := h
      exact ⟨.data (fieldsOf bs), rfl, by rw [encode_data_fieldsOf hlen.ge h0 h1, ← hlen, List.take_length]⟩
  · rintro ⟨i, rfl, rfl⟩
    exact encode_wellFormed i

/-- Settles O3: both sides are the encodings, the decoder's with nothing after them. -/
theorem decoderAcceptsExactlyTheFrames : Obligations.DecoderAcceptsExactlyTheFrames := by
  intro dir bs _
  simp only [wellFormed_iff_encode, decode_eq_ok_iff, List.append_nil]

/-! ### The patterns of the opcode table -/

/-- Settles O4: the five patterns evaluate. -/
theorem tablePatternsDecode : Obligations.TablePatternsDecode := by
  refine ⟨?_, ?_, ?_, ?_, ?_⟩ <;> decide

end Sys2Proof
end

section
/-! One command the host sends, edge by edge (40_command_encoder R135 to R137, 42_host_session R203, R205, R206): its
request, its accepted bytes, and its end by `CmdDone` or by a write failure. -/

namespace Sys2Proof.Machine

/-! ### Runs -/

/-- A run of one more step ends with that step. -/
theorem runSteps_succ (k : Nat) (s : State) : runSteps (k + 1) s = andThen (runSteps k s) step := by
  induction k generalizing s with
  | zero => exact andThen_next_right (step s)
  | succ k ih =>
    have hfirst : ∀ j, runSteps (j + 1) s = andThen (step s) (runSteps j) := fun _ => rfl
    rw [hfirst (k + 1), hfirst k]
    cases step s with
    | next t => exact ih t
    | fault r => rfl
    | refused r => rfl

/-- A run that has answered goes on from its answer. -/
theorem runSteps_add {j : Nat} {s t : State} (h : runSteps j s = .next t) (k : Nat) :
    runSteps (j + k) s = runSteps k t := by
  induction k with
  | zero => exact h
  | succ k ih => rw [← Nat.add_assoc, runSteps_succ, ih, ← runSteps_succ]

/-! ### An edge that receives nothing -/

/-- A step whose edge brings no reset, no RX event and no other driver of the command port is an edge of the TX unit and
the host's reaction to it (10_state R44). -/
theorem step_of_txEdge {s : State} {p : Ports} {rest : List Stimulus} {u : TxUnit} (hin : s.inputs = .edge p :: rest)
    (hrst : p.rst = false) (hundriven : p.cmdValid = false) (hrx : rxEventOf p = none)
    (hu : txEdge (drivenPorts p s.host) s.tx = u) :
    step s = .next (afterCommand u
      (hostObserve s.tx.busy (outPorts { s with rx := { s.rx with out := [] }, tx := u }) s.host) rest s) := by
  have hconf : portConflict p (takeStimulus s).host = false := portConflict_of_undriven _ hundriven
  rw [step_of_edge hin, clockEdge_eq hrst hconf]
  simp [edgeResult, afterEvents, rxEdge_of_none hrx, hu, mapHost, afterCommand, outPorts, hin, currentCmdByte]

/-! ### The host's reaction while it awaits a command -/

section Awaiting

variable {h : HostAgent} {use : CommandUse} (htask : h.task = .command use .awaiting) (wasBusy : Bool) {o : OutPorts}
include htask

/-- A host that awaits a command drives no port (R209). -/
theorem hostRequest_of_awaiting : hostRequest h = none := by
  simp only [hostRequest, htask]

/-- Without a strobe the host goes on waiting. -/
theorem hostObserve_awaiting_nothing (hdone : o.cmdDone = false) (herr : o.errCmdWrite = none) :
    hostObserve wasBusy o h = h := by
  simp [hostObserve, htask, hdone, herr]

/-- `CmdDone` ends the wait as the command's use says (R203, R205, R206). -/
theorem hostObserve_awaiting_done (hdone : o.cmdDone = true) : hostObserve wasBusy o h = commandDone use h := by
  simp [hostObserve, htask, hdone]

/-- A write failure ends the wait with its error (R203, R205, R206). -/
theorem hostObserve_awaiting_failed {count : BitVec 3} (hdone : o.cmdDone = false) (herr : o.errCmdWrite = some count) :
    hostObserve wasBusy o h = commandFailed use count h := by
  simp [hostObserve, htask, hdone, herr]

end Awaiting

/-! ### The bytes of a command in the history -/

/-- Byte `n` of a command's frame is `CmdByte(sel, n)` (R131). -/
theorem commandFrame_getElem? (sel : BitVec 2) {n : Nat} (hn : n < 7) :
    (commandFrame sel)[n]? = some (cmdByte sel (BitVec.ofNat 3 n)) := by
  interval_cases n <;> rfl

/-- One byte more of a command's frame is its next byte. -/
theorem commandFrame_take_succ (sel : BitVec 2) {n : Nat} (hn : n < 7) :
    (commandFrame sel).take (n + 1) = (commandFrame sel).take n ++ [cmdByte sel (BitVec.ofNat 3 n)] := by
  rw [List.take_add_one, commandFrame_getElem? sel hn]
  rfl

/-- The newest entry of a history of sent bytes is the last byte. -/
theorem sentRecords_concat (bs : Frame) (b : Byte) (sel : BitVec 2) (log : List Record) :
    sentRecords (bs ++ [b]) sel log = .out (.txByte b) :: sentRecords bs sel log := by
  simp [sentRecords]

/-! ### The encoder inside a command -/

/-- The TX unit `n` bytes into the command `sel` that it began as `u`, its strobes showing the last byte: what the request
and `n` acceptances leave by `txEdge_begins_command` and `txEdge_accepts_byte`. -/
def commandSending (sel : BitVec 2) (n : Nat) (u : TxUnit) : TxUnit where
  busy := true
  sel := sel
  cnt := BitVec.ofNat 3 n
  out := ((commandFrame sel).take n).getLast?.toList.map .txByte
  log := sentRecords ((commandFrame sel).take n) sel u.log

section Sending

variable (sel : BitVec 2) {n : Nat} (u : TxUnit)

/-- One byte more is the next position, with that byte as the strobe and the newest entry. -/
theorem commandSending_succ (hn : n < 7) : commandSending sel (n + 1) u =
    { commandSending sel n u with
      cnt := BitVec.ofNat 3 n + 1
      out := [.txByte (cmdByte sel (BitVec.ofNat 3 n))]
      log := .out (.txByte (cmdByte sel (BitVec.ofNat 3 n))) :: (commandSending sel n u).log } := by
  simp only [commandSending, commandFrame_take_succ sel hn, sentRecords_concat, List.getLast?_concat, BitVec.ofNat_add]
  rfl

/-- The accepted request is the command's beginning (R135). -/
theorem txEdge_begins_command {p : Ports} (hidle : u.busy = false) (hvalid : p.cmdValid = true) (hsel : p.cmdSel = sel) :
    txEdge p u = commandSending sel 0 u := by
  rw [txEdge_of_request hidle hvalid, hsel]
  rfl

/-- An acceptance before the last emits its byte and advances the position (R136). -/
theorem txEffect_txAccept_earlier {u : TxUnit} (hb : u.busy = true) (hc : u.cnt ≠ 6) :
    txEffect .txAccept u = setTxCnt (u.cnt + 1) (emitTx (.txByte (currentCmdByte u)) u) :=
  (if_pos hb).trans (if_neg hc)

/-- An acceptance before the last moves the command on by its next byte (R136). -/
theorem txEdge_accepts_byte (hn : n < 6) {p : Ports} (habort : p.txAbort = false) (hready : p.txReady = true) :
    txEdge p (commandSending sel n u) = commandSending sel (n + 1) u := by
  have hcnt : BitVec.ofNat 3 n ≠ 6 := by interval_cases n <;> decide
  rw [txEdge_of_event (u := commandSending sel n u) (txEventOf_accept habort hready),
    commandSending_succ sel u (by omega)]
  exact txEffect_txAccept_earlier rfl hcnt

/-- The seventh acceptance ends the command with `CmdDone` (R136). -/
theorem txEdge_accepts_last {p : Ports} (habort : p.txAbort = false) (hready : p.txReady = true) :
    txEdge p (commandSending sel 6 u) = commandSent sel u := by
  rw [txEdge_of_event (u := commandSending sel 6 u) (txEventOf_accept habort hready)]
  rfl

/-- A write failure ends the command where it stands (R137). -/
theorem txEdge_aborts_command {p : Ports} (habort : p.txAbort = true) :
    txEdge p (commandSending sel n u) = commandCut sel n u := by
  rw [txEdge_of_event (u := commandSending sel n u) (txEventOf_abort habort)]
  rfl

/-- An accepted byte is no strobe of a command's end. -/
theorem commandSending_no_strobe (s : State) :
    (outPorts { s with tx := commandSending sel n u }).cmdDone = false
      ∧ (outPorts { s with tx := commandSending sel n u }).errCmdWrite = none := by
  simp only [outPorts, commandSending]
  cases ((commandFrame sel).take n).getLast? with
  | none => exact ⟨rfl, rfl⟩
  | some b => exact ⟨rfl, rfl⟩

end Sending

/-! ### The steps of one command -/

section Steps

variable {use : CommandUse} {s : State} {rest : List Stimulus}

/-- The request the host holds is accepted at an edge that presents nothing (R45, R209). -/
theorem step_accepts_request (hin : s.inputs = quietEdge :: rest) (htask : s.host.task = .command use .requesting)
    (hidle : s.tx.busy = false) :
    step s = .next (afterCommand (commandSending (useSelect s.host.mode use) 0 s.tx)
      (setTask (.command use .awaiting) s.host) rest s) := by
  have hreq : hostRequest s.host = some (useSelect s.host.mode use) := by simp only [hostRequest, htask]
  have hbegin : txEdge (drivenPorts Ports.quiet s.host) s.tx = commandSending (useSelect s.host.mode use) 0 s.tx := by
    rw [drivenPorts_of_request _ hreq]
    exact txEdge_begins_command _ _ hidle rfl rfl
  rw [step_of_txEdge hin rfl rfl rfl hbegin]
  simp [hostObserve, htask, hidle]

section Awaiting

variable {sel : BitVec 2} {n : Nat} {u : TxUnit} (htask : s.host.task = .command use .awaiting)
  (htx : s.tx = commandSending sel n u)
include htask htx

/-- The edge of a TX unit inside a command, of a host that drives nothing. -/
theorem txEdge_awaiting (p : Ports) : txEdge (drivenPorts p s.host) s.tx = txEdge p (commandSending sel n u) := by
  rw [drivenPorts_of_no_request p (hostRequest_of_awaiting htask), htx]

/-- An acceptance before the last sends the next byte, and the host goes on waiting (R136). -/
theorem step_accepts_byte (hn : n < 6) (hin : s.inputs = acceptEdge :: rest) :
    step s = .next (afterCommand (commandSending sel (n + 1) u) s.host rest s) := by
  have hu := (txEdge_awaiting htask htx { Ports.quiet with txReady := true }).trans
    (txEdge_accepts_byte sel u hn rfl rfl)
  obtain ⟨hdone, herr⟩ := commandSending_no_strobe sel (n := n + 1) u { s with rx := { s.rx with out := [] } }
  rw [step_of_txEdge hin rfl rfl rfl hu, hostObserve_awaiting_nothing htask _ hdone herr]

/-- The seventh acceptance ends the command, and the host goes on as its use says (R136). -/
theorem step_accepts_last (hn : n = 6) (hin : s.inputs = acceptEdge :: rest) :
    step s = .next (afterCommand (commandSent sel u) (commandDone use s.host) rest s) := by
  subst hn
  have hu := (txEdge_awaiting htask htx { Ports.quiet with txReady := true }).trans
    (txEdge_accepts_last sel u rfl rfl)
  rw [step_of_txEdge hin rfl rfl rfl hu, hostObserve_awaiting_done htask _ rfl]

/-- A write failure ends the command, and the host returns the error with the bytes accepted so far (R137). -/
theorem step_aborts_command (hin : s.inputs = abortEdge :: rest) :
    step s = .next (afterCommand (commandCut sel n u) (commandFailed use (BitVec.ofNat 3 n) s.host) rest s) := by
  have hu := (txEdge_awaiting htask htx { Ports.quiet with txAbort := true }).trans
    (txEdge_aborts_command sel u rfl)
  rw [step_of_txEdge hin rfl rfl rfl hu, hostObserve_awaiting_failed htask _ rfl rfl]

end Awaiting

/-! ### The run of one command -/

variable (htask : s.host.task = .command use .requesting) (hidle : s.tx.busy = false)
include htask hidle

/-- The request and `n` acceptances leave the encoder `n` bytes into the command, and the host waiting. -/
theorem runSteps_sending {n : Nat} (hn : n ≤ 6) (hin : s.inputs = quietEdge :: (List.replicate n acceptEdge ++ rest)) :
    runSteps (n + 1) s = .next (afterCommand (commandSending (useSelect s.host.mode use) n s.tx)
      (setTask (.command use .awaiting) s.host) rest s) := by
  induction n generalizing rest with
  | zero => exact (andThen_next_right _).trans (step_accepts_request hin htask hidle)
  | succ n ih =>
    have hbefore := ih (rest := acceptEdge :: rest) (by omega) (by simpa [List.replicate_succ'] using hin)
    rw [runSteps_succ, hbefore, andThen_next_left]
    exact step_accepts_byte rfl rfl (by omega) rfl

/-- A command whose bytes are all accepted is sent whole, and the host goes on as its use says (R203, R205, R206). -/
theorem runSteps_commandStimuli (hin : s.inputs = commandStimuli ++ rest) :
    runSteps 8 s = .next (afterCommand (commandSent (useSelect s.host.mode use) s.tx)
      (commandDone use (setTask (.command use .awaiting) s.host)) rest s) := by
  have hbefore := runSteps_sending (rest := acceptEdge :: rest) htask hidle le_rfl hin
  rw [runSteps_succ, hbefore, andThen_next_left]
  exact step_accepts_last rfl rfl rfl rfl

/-- A write failure after `n` bytes cuts the command there, and its pseudo-instruction returns the error (R203, R205,
R206). -/
theorem runSteps_failedCommandStimuli {n : Nat} (hn : n < 7) (hin : s.inputs = failedCommandStimuli n ++ rest) :
    runSteps (n + 2) s = .next (afterCommand (commandCut (useSelect s.host.mode use) n s.tx)
      (commandFailed use (BitVec.ofNat 3 n) (setTask (.command use .awaiting) s.host)) rest s) := by
  have hbefore := runSteps_sending (n := n) (rest := abortEdge :: rest) htask hidle (by omega)
    (by simpa [failedCommandStimuli] using hin)
  rw [runSteps_succ, hbefore, andThen_next_left]
  exact step_aborts_command rfl rfl rfl

end Steps

end Sys2Proof.Machine
end

section
/-! The initialisation of a session (42_host_session R203): the mode command, then `WAKE`, all accepted or with a write
failure in one of them. -/

namespace Sys2Proof.Machine

/-! The bytes of the commands an initialisation sends, as the opcode table lists them (R100, R131). -/

theorem commandFrame_setPassive : commandFrame 0 = [0x42, 0x4D, 0xE1, 0x00, 0x00, 0x01, 0x70] := by decide

theorem commandFrame_setActive : commandFrame 1 = [0x42, 0x4D, 0xE1, 0x00, 0x01, 0x01, 0x71] := by decide

theorem commandFrame_wake : commandFrame 3 = [0x42, 0x4D, 0xE4, 0x00, 0x01, 0x01, 0x74] := by decide

/-- The select code of a mode: 1 for Active, 0 for Passive (R101). -/
theorem modeSelect_eq_ite (m : Mode) : modeSelect m = if m = .active then 1 else 0 := by
  cases m <;> rfl

section Initialize

variable {s : State} (hcreated : s.host.session = .created) (htask : s.host.task = .idle) (hidle : s.tx.busy = false)
  (m : Mode) (rest : List Stimulus)
include hcreated htask

/-- A run that begins with an initialisation in `Created` goes on with the mode command requested (R201, R203). -/
theorem runSteps_initialize (k : Nat) :
    runSteps (1 + k) (withInputs (.call (.initializeSession m) :: rest) s)
      = runSteps k (mapHost (beginInitialize m) (withInputs rest s)) := by
  apply runSteps_add
  have hcall : hostCall (.initializeSession m) (withInputs rest s)
      = .next (mapHost (beginInitialize m) (withInputs rest s)) := by
    have hopen : (withInputs rest s).host.session ≠ .closed := by simp [withInputs, hcreated]
    rw [hostCall_open _ hopen htask, if_pos (by simp [withInputs, hcreated, lawfulCall])]
    rfl
  exact (andThen_next_right _).trans hcall

include hidle

/-- An initialisation with its mode command all accepted goes on with `WAKE` requested (R203). -/
theorem runSteps_initialize_mode (k : Nat) :
    runSteps (9 + k) (withInputs (.call (.initializeSession m) :: (commandStimuli ++ rest)) s)
      = runSteps k (afterCommand (commandSent (modeSelect m) s.tx)
          { s.host with mode := m, task := .command .initWake .requesting } rest s) := by
  rw [show 9 + k = 1 + (8 + k) by omega, runSteps_initialize hcreated htask]
  exact runSteps_add (runSteps_commandStimuli
    (s := mapHost (beginInitialize m) (withInputs (commandStimuli ++ rest) s)) rfl hidle rfl) k

end Initialize

/-- Settles O50: the call, the mode command whole, `WAKE` whole. -/
theorem initializeSendsModeThenWake : Obligations.InitializeSendsModeThenWake := by
  intro m rest s hcreated htask hidle
  have hwake := runSteps_initialize_mode hcreated htask hidle m (commandStimuli ++ rest) 8
  rw [runSteps_commandStimuli rfl rfl rfl, ← List.append_assoc, ← List.cons_append] at hwake
  refine ⟨_, hwake, ?_, ?_, ?_⟩
  · rw [← modeSelect_eq_ite]; rfl
  · rintro rfl
    rw [← commandFrame_wake, ← commandFrame_setPassive]; rfl
  · rintro rfl
    rw [← commandFrame_wake, ← commandFrame_setActive]; rfl

/-- Settles O51: the call and the mode command cut short, or the mode command whole and `WAKE` cut short. -/
theorem initializeFailureStaysCreated : Obligations.InitializeFailureStaysCreated := by
  intro m n rest s hn hcreated htask hidle
  constructor
  · have hmode := runSteps_initialize hcreated htask m (failedCommandStimuli n ++ rest) (n + 2)
    rw [runSteps_failedCommandStimuli
      (s := mapHost (beginInitialize m) (withInputs (failedCommandStimuli n ++ rest) s)) rfl hidle hn rfl,
      ← List.cons_append, Nat.add_comm] at hmode
    refine ⟨_, hmode, ?_, ?_, ?_⟩
    · rw [← modeSelect_eq_ite]; rfl
    · rintro rfl
      rw [← commandFrame_setPassive]; rfl
    · rintro rfl
      rw [← commandFrame_setActive]; rfl
  · have hwake := runSteps_initialize_mode hcreated htask hidle m (failedCommandStimuli n ++ rest) (n + 2)
    rw [runSteps_failedCommandStimuli rfl rfl hn rfl, ← List.append_assoc, ← List.cons_append, Nat.add_comm] at hwake
    refine ⟨_, hwake, ?_, ?_, ?_⟩
    · rw [← modeSelect_eq_ite]; rfl
    · rintro rfl
      rw [← commandFrame_wake, ← commandFrame_setPassive]; rfl
    · rintro rfl
      rw [← commandFrame_wake, ← commandFrame_setActive]; rfl

end Sys2Proof.Machine
end

section
/-! The invariants of the TX unit (40_command_encoder R138): each event of the unit keeps them, so every step does. -/

namespace Sys2Proof.Machine

/-! ### What a TX event does to a busy or an idle encoder -/

/-- The seventh acceptance emits its byte, ends the command and emits `CmdDone` (R136). -/
theorem txEffect_txAccept_last {u : TxUnit} (hb : u.busy = true) (hc : u.cnt = 6) :
    txEffect .txAccept u = emitTx .cmdDone (endCommand (emitTx (.txByte (currentCmdByte u)) u)) :=
  (if_pos hb).trans (if_pos hc)

/-- A write failure while sending raises its exception and ends the command (R137). -/
theorem txEffect_txAbort_busy {u : TxUnit} (hb : u.busy = true) :
    txEffect .txAbort u = endCommand (emitTx (.raised (.commandWriteError u.cnt)) u) := if_pos hb

/-- A write failure while idle is ignored (10_state R47). -/
theorem txEffect_txAbort_idle {u : TxUnit} (hb : u.busy = false) : txEffect .txAbort u = u := by
  simp [txEffect, hb]

/-- An acceptance while idle does nothing (10_state R44). -/
theorem txEffect_txAccept_idle {u : TxUnit} (hb : u.busy = false) : txEffect .txAccept u = u := by
  simp [txEffect, hb]

/-- A request of an idle encoder starts its command (R135). -/
theorem txEffect_cmdReq_idle (sel : BitVec 2) {u : TxUnit} (hb : u.busy = false) :
    txEffect (.cmdReq sel) u = startCommand sel u := by
  simp [txEffect, hb]

/-- A request of a busy encoder waits (10_state R45). -/
theorem txEffect_cmdReq_busy (sel : BitVec 2) {u : TxUnit} (hb : u.busy = true) :
    txEffect (.cmdReq sel) u = u := if_pos hb

/-! ### One more entry in the history -/

/-- A request after whole commands begins a command (R138). -/
theorem txPhase_cmdReq (sel : BitVec 2) {log : List Record} (h : txPhase log = .idle) :
    txPhase (.cmdReq sel :: log) = .sending sel 0 := by
  simp only [txPhase, h, txPhaseNext]

/-- The right next byte moves a command on (R138 (c)). -/
theorem txPhase_txByte {log : List Record} {sel : BitVec 2} {n : Nat} (h : txPhase log = .sending sel n) (hn : n < 7) :
    txPhase (.out (.txByte (cmdByte sel (BitVec.ofNat 3 n))) :: log) = .sending sel (n + 1) := by
  simp [txPhase, h, txPhaseNext, hn]

/-- `CmdDone` after seven bytes ends the command (R138 (d)). -/
theorem txPhase_cmdDone {log : List Record} {sel : BitVec 2} (h : txPhase log = .sending sel 7) :
    txPhase (.out .cmdDone :: log) = .idle := by
  simp [txPhase, h, txPhaseNext]

/-- A `CommandWriteError` with the count of the bytes before it ends the command (R138 (e)). -/
theorem txPhase_commandWriteError {log : List Record} {sel : BitVec 2} {count : BitVec 3}
    (h : txPhase log = .sending sel count.toNat) (hcount : count.toNat < 7) :
    txPhase (.out (.raised (.commandWriteError count)) :: log) = .idle := by
  simp [txPhase, h, txPhaseNext, hcount]

/-- A reset cuts a command, or comes between commands (R138). -/
theorem txPhase_reset {log : List Record} (h : txPhase log ≠ .broken) : txPhase (.reset :: log) = .idle := by
  cases hp : txPhase log with
  | broken => exact absurd hp h
  | idle => simp only [txPhase, hp, txPhaseNext]
  | sending sel n => simp only [txPhase, hp, txPhaseNext]

/-! ### The invariants of an idle and of a busy encoder -/

theorem txInv_iff_of_idle {u : TxUnit} (hb : u.busy = false) : TxInv u ↔ u.cnt = 0 ∧ txPhase u.log = .idle := by
  simp only [TxInv, hb, forall_true_left, Bool.false_eq_true, if_false]
  exact ⟨fun ⟨hc, _, hp⟩ => ⟨hc, hp⟩, fun ⟨hc, hp⟩ => ⟨hc, by simp [hc], hp⟩⟩

theorem txInv_iff_of_busy {u : TxUnit} (hb : u.busy = true) :
    TxInv u ↔ u.cnt.toNat < 7 ∧ txPhase u.log = .sending u.sel u.cnt.toNat := by
  have hpos : u.cnt ≠ 7 ↔ u.cnt.toNat < 7 := by bv_omega
  simp only [TxInv, hb, hpos, reduceCtorEq, IsEmpty.forall_iff, true_and, if_true]

/-- The history of an encoder that meets the invariants is in order. -/
theorem txPhase_ne_broken {u : TxUnit} (h : TxInv u) : txPhase u.log ≠ .broken := by
  obtain ⟨-, -, hp⟩ := h
  rw [hp]
  split <;> simp

/-! ### Every event keeps the invariants -/

/-- The invariants do not speak of the strobes. -/
theorem txInv_clearOut {u : TxUnit} (h : TxInv u) : TxInv { u with out := [] } := h

/-- A reset leaves an idle encoder, whatever command it cut (R270). -/
theorem txInv_resetTx {u : TxUnit} (h : TxInv u) : TxInv (resetTx u) :=
  (txInv_iff_of_idle rfl).mpr ⟨rfl, txPhase_reset (txPhase_ne_broken h)⟩

/-- An accepted request begins a command at position 0 (R135). -/
theorem txInv_startCommand (sel : BitVec 2) {u : TxUnit} (hb : u.busy = false) (h : TxInv u) :
    TxInv (startCommand sel u) := by
  obtain ⟨-, hp⟩ := (txInv_iff_of_idle hb).mp h
  exact (txInv_iff_of_busy rfl).mpr ⟨by simp, txPhase_cmdReq sel hp⟩

/-- The byte at the encoder's position is the next byte of the history's command (R136, R138 (c)). -/
theorem txPhase_currentCmdByte {u : TxUnit} (hb : u.busy = true) (h : TxInv u) :
    txPhase (.out (.txByte (currentCmdByte u)) :: u.log) = .sending u.sel (u.cnt.toNat + 1) := by
  obtain ⟨hn, hp⟩ := (txInv_iff_of_busy hb).mp h
  simpa [currentCmdByte] using txPhase_txByte hp hn

/-- An acceptance before the last advances the position with the history (R136). -/
theorem txInv_accept_earlier {u : TxUnit} (hb : u.busy = true) (hc : u.cnt ≠ 6) (h : TxInv u) :
    TxInv (setTxCnt (u.cnt + 1) (emitTx (.txByte (currentCmdByte u)) u)) := by
  obtain ⟨hn, -⟩ := (txInv_iff_of_busy hb).mp h
  have hnext : (u.cnt + 1).toNat = u.cnt.toNat + 1 := by bv_omega
  have hlt : u.cnt.toNat + 1 < 7 := by bv_omega
  refine (txInv_iff_of_busy (by exact hb)).mpr ?_
  rw [setTxCnt_cnt, hnext]
  exact ⟨hlt, txPhase_currentCmdByte hb h⟩

/-- The seventh acceptance is followed by `CmdDone` (R136, R138 (d)). -/
theorem txInv_accept_last {u : TxUnit} (hb : u.busy = true) (hc : u.cnt = 6) (h : TxInv u) :
    TxInv (emitTx .cmdDone (endCommand (emitTx (.txByte (currentCmdByte u)) u))) := by
  have hseven := txPhase_currentCmdByte hb h
  rw [hc] at hseven
  exact (txInv_iff_of_idle rfl).mpr ⟨rfl, txPhase_cmdDone hseven⟩

/-- A write failure counts the bytes of its command (R137, R138 (e)). -/
theorem txInv_abort {u : TxUnit} (hb : u.busy = true) (h : TxInv u) :
    TxInv (endCommand (emitTx (.raised (.commandWriteError u.cnt)) u)) := by
  obtain ⟨hn, hp⟩ := (txInv_iff_of_busy hb).mp h
  exact (txInv_iff_of_idle rfl).mpr ⟨rfl, txPhase_commandWriteError hp hn⟩

/-- Every event of the unit keeps the invariants. -/
theorem txInv_txEffect (e : InEvent) {u : TxUnit} (h : TxInv u) : TxInv (txEffect e u) := by
  cases e with
  | cmdReq sel =>
    cases hb : u.busy
    · rw [txEffect_cmdReq_idle sel hb]; exact txInv_startCommand sel hb h
    · rw [txEffect_cmdReq_busy sel hb]; exact h
  | txAccept =>
    cases hb : u.busy
    · rw [txEffect_txAccept_idle hb]; exact h
    · by_cases hc : u.cnt = 6
      · rw [txEffect_txAccept_last hb hc]; exact txInv_accept_last hb hc h
      · rw [txEffect_txAccept_earlier hb hc]; exact txInv_accept_earlier hb hc h
  | txAbort =>
    cases hb : u.busy
    · rw [txEffect_txAbort_idle hb]; exact h
    · rw [txEffect_txAbort_busy hb]; exact txInv_abort hb h
  | reset => exact h
  | rxByte b => exact h
  | rxAbort => exact h

/-- Whatever the ports, an edge keeps the invariants. -/
theorem txInv_txEdge (p : Ports) {u : TxUnit} (h : TxInv u) : TxInv (txEdge p u) := by
  unfold txEdge
  split
  · exact txInv_txEffect _ (txInv_clearOut h)
  · exact txInv_clearOut h

/-- Settles O36: a step leaves the TX unit alone, resets it, or is an edge, and each keeps the invariants. -/
theorem stepKeepsTxInvariant : Obligations.StepKeepsTxInvariant := by
  intro s t hinv h
  rcases step_units h with ⟨-, htx⟩ | ⟨-, -, htx⟩ | ⟨p, -, htx⟩ <;> rw [htx]
  · exact hinv
  · exact txInv_resetTx hinv
  · exact txInv_txEdge p hinv

end Sys2Proof.Machine
end

section
/-! The events of the TX unit one by one (40_command_encoder R135 to R137): a request, an acceptance, a write failure. -/

namespace Sys2Proof.Machine

/-- Settles O59: the request of an idle encoder is `startCommand`, and byte 0 of every command is the first start byte. -/
theorem cmdReqStartsEncoder : Obligations.CmdReqStartsEncoder :=
  fun sel s hidle => ⟨_, (exec_decodeSelect sel s).trans (requestCommand_idle sel hidle), rfl, rfl, rfl, rfl⟩

/-- An acceptance changes the TX unit alone, by its effect (R136). -/
theorem txAccept_eq_mapTx (s : State) : txAccept s = mapTx (txEffect .txAccept) s :=
  Host.Outcome.next.inj (handle_txEvent (e := .txAccept) rfl s)

/-- A write failure changes the TX unit alone, by its effect (R137). -/
theorem txAbort_eq_mapTx (s : State) : txAbort s = mapTx (txEffect .txAbort) s :=
  Host.Outcome.next.inj (handle_txEvent (e := .txAbort) rfl s)

/-- While busy the byte at the encoder's position is presented (R42, R136). -/
theorem outPorts_txData_busy {s : State} (hb : s.tx.busy = true) :
    (outPorts s).txData = cmdByte s.tx.sel s.tx.cnt := if_pos hb

/-- While idle no byte is presented (R42). -/
theorem outPorts_txData_idle {s : State} (hb : s.tx.busy = false) : (outPorts s).txData = 0x00 := by
  simp [outPorts, hb]

/-- Settles O14: the byte presented is the byte accepted, and the position decides whether it is the last. -/
theorem txAcceptEmitsOneByte : Obligations.TxAcceptEmitsOneByte := by
  intro s
  constructor
  · intro hb
    refine ⟨hb, by simp [outPorts, hb], outPorts_txData_busy hb, _, handle_txEvent rfl s, ?out, ?last, ?earlier⟩
    case out =>
      rw [mapTx_tx, outPorts_txData_busy hb]
      split
      · next hc => exact txEffect_txAccept_out_last hb hc
      · next hc => exact txEffect_txAccept_out_earlier hb hc
    case last =>
      intro hc
      rw [mapTx, txEffect_txAccept_last hb hc]
      simp [emitTx, endCommand, currentCmdByte]
    case earlier =>
      intro hc
      rw [mapTx, txEffect_txAccept_earlier hb hc]
      simp [emitTx, setTxCnt, currentCmdByte, hb]
  · exact fun hb => ⟨outPorts_txData_idle hb, hb, by simp [outPorts, hb]⟩

/-- Settles O15: the failure is the one event of its unit, and it leaves the encoder idle. -/
theorem txAbortRaisesCommandWriteError : Obligations.TxAbortRaisesCommandWriteError := by
  intro s
  refine ⟨?busy, ?idle, ?edge⟩
  case busy =>
    intro hb
    refine ⟨_, handle_txEvent rfl s, ?_⟩
    rw [mapTx, txEffect_txAbort_busy hb]
    exact ⟨rfl, rfl⟩
  case idle =>
    intro hb
    rw [handle_txEvent rfl, mapTx, txEffect_txAbort_idle hb]
  case edge =>
    intro p hrst hconf ha hb
    have htx : (edgeResult p s).tx
        = endCommand (emitTx (.raised (.commandWriteError s.tx.cnt)) { s.tx with out := [] }) := by
      rw [edgeResult_tx, txEdge_of_event (hb ▸ (txEventOf_drivenPorts_busy p s.host).trans (txEventOf_abort ha))]
      exact txEffect_txAbort_busy hb
    exact ⟨_, clockEdge_eq hrst hconf, htx, by simp only [outPorts, htx]; rfl⟩

end Sys2Proof.Machine
end

section
/-! The checksum sums (40_command_encoder R131, R132, R134; 41_frame_parser R168): the 16-bit sum is the plain sum modulo
2^16, and a plain sum of bytes is at most 255 for each. -/

namespace Sys2Proof

/-- A 16-bit sum is the plain sum modulo 2^16 (00_scope R13). -/
theorem sum16_toNat (bs : List Byte) : (sum16 bs).toNat = Frame.byteSum bs % 2 ^ 16 := by
  induction bs with
  | nil => rfl
  | cons b bs ih =>
    have hbyte : (zext16 b).toNat = b.toNat := by simp [zext16]; omega
    have hcons : Frame.byteSum (b :: bs) = b.toNat + Frame.byteSum bs := by simp [Frame.byteSum]
    rw [sum16, BitVec.toNat_add, hbyte, ih, hcons, Nat.add_mod_mod]

/-- A plain sum of bytes is at most 255 for each of them. -/
theorem byteSum_le (bs : Frame) : Frame.byteSum bs ≤ bs.length * 255 := by
  have hbyte : ∀ x ∈ bs.map BitVec.toNat, x ≤ 255 := by
    intro x hx
    obtain ⟨b, -, rfl⟩ := List.mem_map.mp hx
    omega
  simpa [Frame.byteSum] using List.sum_le_card_nsmul _ _ hbyte

/-- Up to 257 bytes the 16-bit sum does not wrap: 257 * 255 = 2^16 - 1 (R134, R168). -/
theorem sum16_toNat_of_length_le {bs : List Byte} (h : bs.length ≤ 257) : (sum16 bs).toNat = Frame.byteSum bs := by
  have hle := byteSum_le bs
  rw [sum16_toNat, Nat.mod_eq_of_lt (by omega)]

/-- Settles O6: up to 257 bytes the sum is the plain one, which the number of bytes bounds. -/
theorem checksumSumsNeverWrap : Obligations.ChecksumSumsNeverWrap := by
  intro bs
  have hle := byteSum_le bs
  refine ⟨sum16_toNat_of_length_le, fun h => ?_, fun h => ?_⟩
  · rw [sum16_toNat_of_length_le (by omega)]; omega
  · rw [sum16_toNat_of_length_le (by omega)]; omega

/-- Settles O5: the four sums evaluate, and so does the high byte of each. -/
theorem commandChecksums : Obligations.CommandChecksums := by
  refine ⟨?_, ?_, ?_, ?_, ?_⟩ <;> decide

end Sys2Proof
end

section
/-! The frame of a command, acceptance by acceptance (40_command_encoder R135 to R137, R140 to R143): its request, its bytes
in order, and its end by `CmdDone` or by a write failure. -/

namespace Sys2Proof.Machine

/-- One acceptance more is the last one. -/
theorem acceptMany_succ (n : Nat) (s : State) : acceptMany (n + 1) s = txAccept (acceptMany n s) := by
  induction n generalizing s with
  | zero => rfl
  | succ n ih => exact ih (txAccept s)

/-- The TX unit `n` bytes into the command `sel` that it began as `u`, with every byte so far among its output events: what
the request and `n` acceptances leave without an edge between them, by `acceptMany_startCommand`. -/
def commandEmitting (sel : BitVec 2) (n : Nat) (u : TxUnit) : TxUnit :=
  { commandSending sel n u with out := u.out ++ ((commandFrame sel).take n).map .txByte }

section Emitting

variable (sel : BitVec 2) {n : Nat}

/-- An acceptance before the last emits the next byte of the frame (R136). -/
theorem txEffect_txAccept_commandEmitting (u : TxUnit) (hn : n < 6) :
    txEffect .txAccept (commandEmitting sel n u) = commandEmitting sel (n + 1) u := by
  have hcnt : BitVec.ofNat 3 n ≠ 6 := by interval_cases n <;> decide
  rw [txEffect_txAccept_earlier rfl hcnt, commandEmitting, commandEmitting, commandSending_succ sel u (by omega),
    commandFrame_take_succ sel (by omega), List.map_append, ← List.append_assoc]
  rfl

/-- The request and up to six acceptances leave the encoder inside the command, that many bytes in (R135, R136). -/
theorem acceptMany_startCommand (s : State) (hn : n ≤ 6) :
    acceptMany n (mapTx (startCommand sel) s) = { s with tx := commandEmitting sel n s.tx } := by
  induction n with
  | zero => simp [acceptMany, mapTx, startCommand, commandEmitting, commandSending, sentRecords]
  | succ n ih =>
    rw [acceptMany_succ, ih (by omega), txAccept_eq_mapTx, mapTx, txEffect_txAccept_commandEmitting sel s.tx (by omega)]

end Emitting

/-- A command of an idle encoder emits the bytes of its select code and `CmdDone`, or as many as were accepted before the
write failure (R140 to R143). -/
theorem emitsFrame_commandFrame {i : Instr} {sel : BitVec 2} (hsel : selectOf i = some sel) {s : State}
    (hidle : s.tx.busy = false) : EmitsFrame i sel (commandFrame sel) s := by
  refine ⟨_, (exec_of_selectOf hsel s).trans (requestCommand_idle sel hidle), rfl, ?whole, fun n hn => ?cut⟩
  case whole =>
    rw [acceptMany_succ, acceptMany_startCommand sel s le_rfl, txAccept_eq_mapTx, mapTx,
      txEffect_txAccept_last rfl rfl]
    simp [emitTx, endCommand, currentCmdByte, commandEmitting, commandSending, commandFrame, sentRecords]
  case cut =>
    rw [acceptMany_startCommand sel s (by omega), txAbort_eq_mapTx, mapTx, txEffect_txAbort_busy rfl]
    exact ⟨rfl, rfl⟩

/-- The bytes of `SLEEP`, as the opcode table lists them (R100, R131). -/
theorem commandFrame_sleep : commandFrame 2 = [0x42, 0x4D, 0xE4, 0x00, 0x00, 0x01, 0x73] := by decide

/-- Settles O9: the bytes are those of select code 0. -/
theorem setPassiveEmitsItsFrame : Obligations.SetPassiveEmitsItsFrame :=
  fun _ hidle => commandFrame_setPassive ▸ emitsFrame_commandFrame rfl hidle

/-- Settles O10: the bytes are those of select code 1. -/
theorem setActiveEmitsItsFrame : Obligations.SetActiveEmitsItsFrame :=
  fun _ hidle => commandFrame_setActive ▸ emitsFrame_commandFrame rfl hidle

/-- Settles O11: the bytes are those of select code 2. -/
theorem sleepEmitsItsFrame : Obligations.SleepEmitsItsFrame :=
  fun _ hidle => commandFrame_sleep ▸ emitsFrame_commandFrame rfl hidle

/-- Settles O12: the bytes are those of select code 3. -/
theorem wakeEmitsItsFrame : Obligations.WakeEmitsItsFrame :=
  fun _ hidle => commandFrame_wake ▸ emitsFrame_commandFrame rfl hidle

end Sys2Proof.Machine
end

section
/-! The frame parser, one event at a time (41_frame_parser R160 to R167): a byte is stored, the last one of a frame makes a
reading or a framing error, and a read failure drops what was received. -/

namespace Sys2Proof.Machine

/-- Settles O16: DATA is a reading with its checksum comparison, and its `FrameDone`. -/
theorem dataLoadsReading : Obligations.DataLoadsReading :=
  fun ws s => ⟨_, exec_data ws s, fun _ => rfl, checksumFlag_iff ws, rfl, rfl, rfl⟩

/-- Settles O18: the byte is stored at the counter, which advances. -/
theorem rxByteStoresAndAdvances : Obligations.RxByteStoresAndAdvances := by
  intro b s hc
  refine ⟨_, handle_rxEvent rfl s, ?_⟩
  rw [mapRx_rx, mapRx, rxEffect_store b hc]
  exact ⟨rfl, memRead1_memWrite1_same _ b s.rx, fun a ha => memRead1_memWrite1_other b s.rx ha⟩

/-- Settles O21: the failure raises its exception and sets the counter back. -/
theorem rxAbortDropsPartialFrame : Obligations.RxAbortDropsPartialFrame :=
  fun s => ⟨_, handle_rxEvent rfl s, rfl⟩

/-- Settles O20: the last byte is stored, and the exception is the only other change beside the counter. -/
theorem framingErrorDiscardsFrame : Obligations.FramingErrorDiscardsFrame := by
  intro b s hc hstart
  refine ⟨_, handle_rxEvent rfl s, ?_⟩
  rw [mapRx_rx, mapRx, rxEffect_framing_error b hc hstart, hc]
  exact ⟨rfl, memRead1_memWrite1_same 31 b s.rx, fun a ha => memRead1_memWrite1_other b s.rx ha⟩

/-! ### The bytes of the frame a byte completes -/

theorem receivedFrame_length (b : Byte) (u : RxUnit) : (receivedFrame b u).length = Config.frameLen := rfl

/-- Below offset 31 the completed frame is the buffer (R160). -/
theorem receivedFrame_getD_buffer (b : Byte) (u : RxUnit) {a : Nat} (ha : a < 31) :
    (receivedFrame b u).getD a 0 = memRead1 u (BitVec.ofNat 5 a) := by
  have hlen : a < ((List.range 31).map fun a => memRead1 u (BitVec.ofNat 5 a)).length := by simpa using ha
  rw [receivedFrame, List.getD_append _ _ _ _ hlen]
  simp [ha]

/-- With the last byte stored, the buffer holds the completed frame at every offset (R160). -/
theorem memRead1_last_stored (b : Byte) (u : RxUnit) (a : BitVec 5) :
    memRead1 (memWrite1 31 b u) a = (receivedFrame b u).getD a.toNat 0 := by
  by_cases ha : a = 31
  · rw [ha, memRead1_memWrite1_same]; rfl
  · have hlt : a.toNat < 31 := by bv_omega
    rw [memRead1_memWrite1_other b u ha, receivedFrame_getD_buffer b u hlt, BitVec.ofNat_toNat, BitVec.setWidth_eq]

/-- The two bytes of field `k` stand at offsets `2+2k` and `3+2k` (R169). -/
theorem fieldOffset_toNat (k : Fin 15) :
    (fieldOffset k).toNat = 2 + 2 * k.val ∧ (fieldOffset k + 1).toNat = 3 + 2 * k.val := by
  revert k; decide

/-- With the last byte stored, the registers' words are those `MemRead` gives at the fields' offsets (R165, R169). -/
theorem memRead2_last_stored (b : Byte) (u : RxUnit) (k : Fin 15) :
    memRead2 (memWrite1 31 b u) k
      = be16 ((receivedFrame b u).getD (2 + 2 * k.val) 0) ((receivedFrame b u).getD (3 + 2 * k.val) 0) := by
  obtain ⟨hhi, hlo⟩ := fieldOffset_toNat k
  rw [memRead2, memRead1_last_stored, memRead1_last_stored, hhi, hlo]

/-! ### The reading of a frame -/

/-- The word at index `k` of a frame's reading (R165). -/
theorem fieldsOf_get (bs : Frame) (k : Fin 15) :
    (fieldsOf bs).get k = be16 (bs.getD (2 + 2 * k.val) 0) (bs.getD (3 + 2 * k.val) 0) := by
  rw [fieldsOf, Fields.get_ofFn, wordAt, Config.payloadOff, show 2 + 2 * k.val + 1 = 3 + 2 * k.val by omega]

/-- The start check names the two start bytes (R162). -/
theorem startOk_iff (bs : Frame) :
    Frame.startOk bs = true ↔ bs.getD 0 0 = Config.start0 ∧ bs.getD 1 0 = Config.start1 := by
  simp [Frame.startOk]

section GoodStart

variable {bs : Frame} (hlen : bs.length = Config.frameLen) (hstart : Frame.startOk bs = true)
include hlen hstart

/-- The checksum of a frame covers its first thirty bytes (R164). -/
theorem coveredBytes_fieldsOf : coveredBytes (fieldsOf bs) = bs.take Config.rxChkCover := by
  obtain ⟨h0, h1⟩ := (startOk_iff bs).mp hstart
  have hbytes : coveredBytes (fieldsOf bs) ++ wordBytes (fieldsOf bs).checksum = bs := by
    exact (encode_data_fieldsOf hlen.ge h0 h1).trans (List.take_of_length_le hlen.le)
  calc coveredBytes (fieldsOf bs)
      = (coveredBytes (fieldsOf bs) ++ wordBytes (fieldsOf bs).checksum).take Config.rxChkCover :=
        (List.take_left' (coveredBytes_length _)).symm
    _ = bs.take Config.rxChkCover := by rw [hbytes]

/-- The flag of a frame compares the sum of its first thirty bytes with its last two (R164). -/
theorem checksumFlag_fieldsOf_iff :
    checksumFlag (fieldsOf bs) = true ↔ sum16 (bs.take 30) = wordAt bs 30 := by
  rw [checksumFlag_iff, coveredBytes_fieldsOf hlen hstart]
  rfl

/-- The right start bytes make the frame a reading (R165). -/
theorem frameEffect_of_good_start (u : RxUnit) :
    frameEffect bs u = emitRx .frameDone (loadReading (fieldsOf bs) (checksumFlag (fieldsOf bs)) u) := by
  unfold frameEffect
  rcases decode_inbound_cases bs with ⟨hd, -⟩ | ⟨-, hbad⟩ | ⟨-, hshort⟩
  · rw [hd]
  · exact absurd ((startOk_iff bs).mp hstart) hbad
  · exact absurd hlen hshort.ne

end GoodStart

/-- The byte that completes a frame stores itself, sets the counter back and completes the frame (R160, R161). -/
theorem rxEffect_last (b : Byte) {u : RxUnit} (hc : u.cnt = 31) :
    rxEffect (.rxByte b) u = frameEffect (receivedFrame b u) (setRxCnt 0 (memWrite1 31 b u)) :=
  (if_pos hc).trans (by rw [hc])

/-- Settles O19: the completed frame's words are its reading, and the buffer holds the frame. -/
theorem lastByteOfFrameMakesReading : Obligations.LastByteOfFrameMakesReading := by
  intro b s bs hbs hc h0 h1
  have hlen : bs.length = Config.frameLen := by rw [hbs, receivedFrame_length]
  have hstart : Frame.startOk bs = true := (startOk_iff bs).mpr ⟨h0, h1⟩
  refine ⟨_, handle_rxEvent rfl s, ?_⟩
  rw [mapRx_rx, rxEffect_last b hc, ← hbs, frameEffect_of_good_start hlen hstart]
  refine ⟨fieldsOf_get bs, fun k => ?_, checksumFlag_fieldsOf_iff hlen hstart, rfl, rfl, rfl, rfl,
    memRead1_memWrite1_same 31 b s.rx, fun a ha => memRead1_memWrite1_other b s.rx ha, rfl, rfl, rfl⟩
  exact (fieldsOf_get bs k).trans (hbs ▸ (memRead2_last_stored b s.rx k).symm)

/-! ### The bound on a valid checksum -/

/-- The sum of the covered bytes is at most that of the start bytes and 28 bytes of 255 (R171 (f)). -/
theorem sum16_coveredBytes_le (ws : Fields) : (sum16 (coveredBytes ws)).toNat ≤ 0x1C73 := by
  have hpayload : Frame.byteSum (payloadBytes ws) ≤ 28 * 255 := byteSum_le (payloadBytes ws)
  have hsplit : Frame.byteSum (coveredBytes ws) = 0x42 + (0x4D + Frame.byteSum (payloadBytes ws)) := by
    simp [Frame.byteSum, coveredBytes, Config.start0, Config.start1]
  have hshort : (coveredBytes ws).length ≤ 257 := by rw [coveredBytes_length]; decide
  rw [sum16_toNat_of_length_le hshort, hsplit]
  omega

/-- Settles O41: a valid flag stands beside a reading, whose checksum is then the sum of the covered bytes. -/
theorem validFlagBoundsChecksum : Obligations.ValidFlagBoundsChecksum := by
  rintro u ⟨-, -, habsent, hflag, -⟩ hvalid
  have hpresent : u.present = true := by
    by_contra hp
    obtain ⟨-, hinvalid⟩ := habsent (Bool.eq_false_of_not_eq_true hp)
    exact absurd (hvalid.symm.trans hinvalid) (by decide)
  have hsum : sum16 (coveredBytes u.f) = u.f.get 14 := (checksumFlag_iff u.f).mp ((hflag hpresent).symm.trans hvalid)
  exact hsum ▸ sum16_coveredBytes_le u.f

end Sys2Proof.Machine
end

section
/-! Thirty-two received bytes, edge by edge (41_frame_parser R160, R161, R166, R171): each but the last is stored, and the
last completes the frame of them all. -/

namespace Sys2Proof.Machine

/-- The unit `v` is what `u` has become with the first bytes `pre` of a frame counted and in its buffer, and nothing else
changed but the strobes (R160). `runSteps_byteEdges` ties it to the steps that receive those bytes. -/
def PartlyReceived (pre : Frame) (u v : RxUnit) : Prop :=
  v = { u with cnt := BitVec.ofNat 5 pre.length, buf := v.buf, out := v.out }
    ∧ ∀ a : Nat, a < pre.length → memRead1 v (BitVec.ofNat 5 a) = pre.getD a 0

/-- At position 0 nothing of a frame has been received. -/
theorem partlyReceived_nil {u : RxUnit} (hc : u.cnt = 0) : PartlyReceived [] u u := by
  refine ⟨?_, fun a ha => absurd ha (Nat.not_lt_zero a)⟩
  cases u; cases hc; rfl

section PartlyReceived

variable {pre : Frame} {u v : RxUnit} (h : PartlyReceived pre u v)
include h

theorem PartlyReceived.cnt_eq : v.cnt = BitVec.ofNat 5 pre.length := by rw [h.1]

/-- A byte before the last is one byte more of the frame (R160). -/
theorem PartlyReceived.store (b : Byte) (hlen : pre.length < 31) :
    PartlyReceived (pre ++ [b]) u (rxEffect (.rxByte b) { v with out := [] }) := by
  have hc : v.cnt = BitVec.ofNat 5 pre.length := h.cnt_eq
  have hnot : v.cnt ≠ 31 := by rw [hc]; bv_omega
  rw [rxEffect_store b (by exact hnot)]
  obtain ⟨hrest, hread⟩ := h
  constructor
  · rw [hrest]
    simp [setRxCnt, memWrite1, BitVec.ofNat_add]
  · intro a ha
    rw [memRead1_setRxCnt]
    by_cases hlast : a = pre.length
    · rw [hlast, ← hc, memRead1_memWrite1_same]; simp
    · have hlt : a < pre.length := by simp at ha; omega
      have hne : BitVec.ofNat 5 a ≠ v.cnt := by rw [hc]; bv_omega
      rw [memRead1_memWrite1_other b _ hne, List.getD_append _ _ _ _ hlt]
      exact hread a hlt

/-- After 31 bytes the last one completes the frame of them all (R160, R161). -/
theorem PartlyReceived.complete (b : Byte) (hlen : pre.length = 31) :
    ∃ buf, rxEffect (.rxByte b) { v with out := [] }
      = frameEffect (pre ++ [b]) { u with cnt := 0, buf := buf, out := [] } := by
  have hc : v.cnt = 31 := by rw [h.cnt_eq, hlen]; rfl
  obtain ⟨hrest, hread⟩ := h
  have hframe : receivedFrame b v = pre ++ [b] := by
    refine congrArg (· ++ [b]) (List.ext_getElem (by simp [hlen]) fun a ha ha' => ?_)
    simp [hread a ha', List.getElem?_eq_getElem ha']
  refine ⟨memInsert v.buf 31 b, ?_⟩
  rw [rxEffect_last b (by exact hc), ← hframe, hrest]
  rfl

end PartlyReceived

/-- An edge that presents a byte is that byte's event in the RX unit, whatever the encoder and the host do (10_state R44). -/
theorem step_byteEdge {s : State} {b : Byte} {rest : List Stimulus} (hin : s.inputs = byteEdge b :: rest) :
    ∃ t, step s = .next t ∧ t.inputs = rest ∧ t.rx = rxEffect (.rxByte b) { s.rx with out := [] } := by
  rw [step_of_edge hin, clockEdge_eq rfl (portConflict_of_undriven _ rfl)]
  exact ⟨_, rfl, by simp [hin], by rw [edgeResult_rx]; rfl⟩

/-- Bytes that do not complete the frame are received one after another (R160). -/
theorem runSteps_byteEdges {u : RxUnit} {rest : List Stimulus} (bs : Frame) {pre : Frame} {s : State}
    (hlen : pre.length + bs.length ≤ 31) (hin : s.inputs = bs.map byteEdge ++ rest) (h : PartlyReceived pre u s.rx) :
    ∃ t, runSteps bs.length s = .next t ∧ t.inputs = rest ∧ PartlyReceived (pre ++ bs) u t.rx := by
  induction bs generalizing pre s with
  | nil => exact ⟨s, rfl, hin, by rwa [List.append_nil]⟩
  | cons b bs ih =>
    rw [List.length_cons] at hlen
    obtain ⟨t, hstep, htin, htrx⟩ := step_byteEdge hin
    have hnext : PartlyReceived (pre ++ [b]) u t.rx := htrx ▸ h.store b (by omega)
    obtain ⟨r, hrun, hr⟩ := ih (by simp; omega) htin hnext
    refine ⟨r, ?_, by simpa using hr⟩
    rw [List.length_cons, runSteps, hstep]
    exact hrun

/-- Thirty-two bytes received from position 0 are stored and complete their frame at the last (R160, R161). -/
theorem runSteps_frame {bs : Frame} (hlen : bs.length = 32) (rest : List Stimulus) {s : State} (hc : s.rx.cnt = 0) :
    ∃ t buf, runSteps 32 (withInputs (bs.map byteEdge ++ rest) s) = .next t ∧ t.inputs = rest
      ∧ t.rx = frameEffect bs { s.rx with cnt := 0, buf := buf, out := [] } := by
  obtain rfl | ⟨pre, b, rfl⟩ := List.eq_nil_or_concat' bs
  · cases hlen
  have hpre : pre.length = 31 := by simpa using hlen
  have hin : (withInputs ((pre ++ [b]).map byteEdge ++ rest) s).inputs = pre.map byteEdge ++ (byteEdge b :: rest) := by
    simp [withInputs]
  obtain ⟨r, hrun, hrin, hr⟩ := runSteps_byteEdges pre (by simp [hpre]) hin (partlyReceived_nil hc)
  obtain ⟨t, hstep, htin, htrx⟩ := step_byteEdge hrin
  obtain ⟨buf, hframe⟩ := hr.complete b hpre
  refine ⟨t, buf, ?_, htin, htrx.trans hframe⟩
  rw [runSteps_succ, ← hpre, hrun]
  exact hstep

/-- Settles O22: the frame completed at the last byte is the one event, whose kind the start bytes decide. -/
theorem thirtyTwoBytesGiveOneOutcome : Obligations.ThirtyTwoBytesGiveOneOutcome := by
  intro bs rest s hlen hc
  obtain ⟨t, buf, hrun, hin, hrx⟩ := runSteps_frame hlen rest hc
  refine ⟨t, hrun, hin, ?_⟩
  cases hstart : Frame.startOk bs
  case false =>
    have hbad : ¬(bs.getD 0 0 = Config.start0 ∧ bs.getD 1 0 = Config.start1) := by
      rw [← startOk_iff, hstart]; decide
    rw [hrx, frameEffect_of_bad_start hbad]
    simp [frameOutcome, hstart]
  case true =>
    rw [hrx, frameEffect_of_good_start hlen hstart]
    simp [frameOutcome, hstart, checksumFlag_fieldsOf_iff hlen hstart]

/-- Settles O23: the frame of the words begins with the start bytes, and its words are those. -/
theorem frameOfWordsRoundTrips : Obligations.FrameOfWordsRoundTrips := by
  intro ws rest s hc
  have hlen : (encode (.data ws)).length = 32 := encode_length _
  have hwords : fieldsOf (encode (.data ws)) = ws := by simpa using fieldsOf_encode_data ws []
  obtain ⟨t, buf, hrun, -, hrx⟩ := runSteps_frame hlen rest hc
  refine ⟨t, hrun, ?_⟩
  rw [hrx, frameEffect_of_good_start hlen rfl, hwords]
  exact ⟨fun _ => rfl, rfl, rfl, checksumFlag_iff ws⟩

end Sys2Proof.Machine
end

section
/-! The host's calls (42_host_session R201, R202, R208), the moves that are refused, and what a reset leaves beside the
block. -/

namespace Sys2Proof.Machine

/-- In `Closed` no call is lawful (R208). -/
theorem ne_closed_of_lawfulCall {c : HostCall} {x : Session} (h : lawfulCall c x = true) : x ≠ .closed := by
  rintro rfl
  cases c <;> cases h

/-- A lawful call of an idle host begins (R201). -/
theorem hostCall_lawful {c : HostCall} {s : State} (hidle : s.host.task = .idle)
    (hlawful : lawfulCall c s.host.session = true) : hostCall c s = .next (mapHost (beginCall c) s) := by
  rw [hostCall_open c (ne_closed_of_lawfulCall hlawful) hidle, if_pos hlawful]

/-- A call that answers found the session closed, or was a lawful call of an idle host (R201, R202, R208). -/
theorem hostCall_next_cases {c : HostCall} {s t : State} (h : hostCall c s = .next t) :
    (s.host.session = .closed ∧ t = mapHost (returnResult c (.error .sessionClosedError)) s)
      ∨ (s.host.task = .idle ∧ lawfulCall c s.host.session = true ∧ t = mapHost (beginCall c) s) := by
  by_cases hopen : s.host.session = .closed
  · rw [hostCall_closed c hopen] at h
    cases h
    exact .inl ⟨hopen, rfl⟩
  · by_cases hidle : s.host.task = .idle
    · rw [hostCall_open c hopen hidle] at h
      split at h <;> cases h
      next hlawful => exact .inr ⟨hidle, hlawful, rfl⟩
    · rw [hostCall_inProgress c hopen hidle] at h
      cases h

/-- A pseudo-instruction that returns leaves the host idle as it was before the call, with one more result (R202). -/
theorem returnResult_of_idle (c : HostCall) (r : HostResult) {h : HostAgent} (hidle : h.task = .idle) :
    returnResult c r h = { h with returns := ⟨c, r⟩ :: h.returns } := by
  rw [returnResult, ← hidle]

/-- Settles O46: a lawful call is `beginCall`, any other is refused. -/
theorem hostCallTable : Obligations.HostCallTable := by
  intro c s hopen hidle
  constructor
  · intro hlawful
    refine ⟨_, hostCall_lawful hidle hlawful, rfl, rfl, rfl, ?_, ?_, ?_, ?_, ?_⟩
    · rintro m rfl; rfl
    · rintro rfl; rfl
    · rintro rfl; rfl
    · rintro rfl; rfl
    · rintro rfl
      exact returnResult_of_idle .close .done (h := setSession .closed s.host) hidle
  · intro hno
    rw [hostCall_open c hopen hidle, hno]
    rfl

/-- Settles O47: the call returns its error, which is a change of the host alone. -/
theorem closedSessionReturnsError : Obligations.ClosedSessionReturnsError :=
  fun c _ hclosed => ⟨_, hostCall_closed c hclosed, rfl, rfl, rfl, hclosed, rfl⟩

/-- Settles O55: each unlawful move meets the guard of its own refusal. -/
theorem unlawfulMovesAreRefused : Obligations.UnlawfulMovesAreRefused :=
  fun _ => ⟨fun c => hostCall_inProgress c, fun _ hrst hconf => clockEdge_of_conflict hrst hconf,
    fun _ hclosed => if_pos hclosed, fun hclosed => if_pos hclosed⟩

/-- Settles O25: the buffer lists nothing after a reset, so every byte is the free one of the new draw. -/
theorem resetFreesBufferAndStartsSession : Obligations.ResetFreesBufferAndStartsSession :=
  fun _ => ⟨_, rfl, fun _ => rfl, rfl, rfl, rfl, rfl, rfl, rfl, rfl⟩

end Sys2Proof.Machine
end

section
/-! `sleep` and `wake` (42_host_session R205, R206): a lawful call that begins with a command, and the run of that
command. -/

namespace Sys2Proof.Machine

section CommandCall

variable {s : State} {c : HostCall} {use : CommandUse} (htask : s.host.task = .idle)
  (hlawful : lawfulCall c s.host.session = true)
  (hbegin : beginCall c s.host = setTask (.command use .requesting) s.host) (rest : List Stimulus)
include htask hlawful hbegin

/-- A run that begins with the call goes on with the command requested (R201). -/
theorem runSteps_requesting (k : Nat) :
    runSteps (1 + k) (withInputs (.call c :: rest) s)
      = runSteps k (mapHost (setTask (.command use .requesting)) (withInputs rest s)) := by
  apply runSteps_add
  have hcall := hostCall_lawful (s := withInputs rest s) htask hlawful
  have hbegun : mapHost (beginCall c) (withInputs rest s)
      = mapHost (setTask (.command use .requesting)) (withInputs rest s) := by
    simp only [mapHost, withInputs, hbegin]
  exact (andThen_next_right _).trans (hcall.trans (congrArg _ hbegun))

variable (hidle : s.tx.busy = false)
include hidle

/-- With every byte accepted the command is sent whole, and the call ends as its use says (R205, R206). -/
theorem runSteps_commandCall :
    runSteps 9 (withInputs (.call c :: commandStimuli ++ rest) s)
      = .next (afterCommand (commandSent (useSelect s.host.mode use) s.tx)
          (commandDone use (setTask (.command use .awaiting) s.host)) rest s) :=
  (runSteps_requesting htask hlawful hbegin (commandStimuli ++ rest) 8).trans
    (runSteps_commandStimuli
      (s := mapHost (setTask (.command use .requesting)) (withInputs (commandStimuli ++ rest) s)) rfl hidle rfl)

/-- With a write failure after `n` bytes the command is cut there, and the call returns the error (R205, R206). -/
theorem runSteps_failedCommandCall {n : Nat} (hn : n < 7) :
    runSteps (n + 3) (withInputs (.call c :: failedCommandStimuli n ++ rest) s)
      = .next (afterCommand (commandCut (useSelect s.host.mode use) n s.tx)
          (commandFailed use (BitVec.ofNat 3 n) (setTask (.command use .awaiting) s.host)) rest s) := by
  rw [show n + 3 = 1 + (n + 2) by omega]
  exact (runSteps_requesting htask hlawful hbegin (failedCommandStimuli n ++ rest) (n + 2)).trans
    (runSteps_failedCommandStimuli
      (s := mapHost (setTask (.command use .requesting)) (withInputs (failedCommandStimuli n ++ rest) s))
      rfl hidle hn rfl)

end CommandCall

/-- Settles O52: each is a lawful call that begins with one command. -/
theorem sleepAndWakeMoveTheSession : Obligations.SleepAndWakeMoveTheSession := by
  intro n rest s hn htask hidle
  constructor
  · intro hready
    have hlawful : lawfulCall .sleep s.host.session = true := by simp [lawfulCall, hready]
    rw [runSteps_commandCall (use := .sleep) htask hlawful rfl rest hidle,
      runSteps_failedCommandCall (use := .sleep) htask hlawful rfl rest hidle hn]
    simp [commandDone, commandFailed, useCall, useSelect, returnResult, setSession, setTask, htask]
  · intro hsession
    have hlawful : lawfulCall .wake s.host.session = true := by simpa [lawfulCall] using hsession
    rw [runSteps_commandCall (use := .wake) htask hlawful rfl rest hidle,
      runSteps_failedCommandCall (use := .wake) htask hlawful rfl rest hidle hn]
    simp [commandDone, commandFailed, useCall, useSelect, returnResult, setSession, setTask, htask]

end Sys2Proof.Machine
end

section
/-! A waiting `read` (42_host_session R204): the host's reaction to the strobes of the RX unit, edge by edge. -/

namespace Sys2Proof.Machine

/-! ### What the strobes of the RX unit are to a `read` -/

theorem readOutcome_of_silent {s : State} (h : s.rx.out = []) : readOutcome (outPorts s) = none := by
  simp [readOutcome, outPorts, h, framingErrorOf, readErrorOf]

theorem readOutcome_of_frameDone {s : State} (h : s.rx.out = [.frameDone]) :
    readOutcome (outPorts s) = some (.reading s.rx.f s.rx.chkValid) := by
  simp [readOutcome, outPorts, h]

theorem readOutcome_of_framingError {s : State} {got : Word} (h : s.rx.out = [.raised (.framingError got)]) :
    readOutcome (outPorts s) = some (.error (.block (.framingError got))) := by
  simp [readOutcome, outPorts, h, framingErrorOf]

theorem readOutcome_of_transportReadError {s : State} {count : BitVec 5}
    (h : s.rx.out = [.raised (.transportReadError count)]) :
    readOutcome (outPorts s) = some (.error (.block (.transportReadError count))) := by
  simp [readOutcome, outPorts, h, framingErrorOf, readErrorOf]

/-! ### An edge while the host reads -/

section Reading

variable {h : HostAgent} (htask : h.task = .reading) (wasBusy : Bool) {o : OutPorts}
include htask

/-- A host that reads drives no port (R209). -/
theorem hostRequest_of_reading : hostRequest h = none := by
  simp only [hostRequest, htask]

/-- A frame outcome ends the `read` (R204). -/
theorem hostObserve_reading_outcome {r : HostResult} (hr : readOutcome o = some r) :
    hostObserve wasBusy o h = returnResult .read r h := by
  simp only [hostObserve, htask, hr]

/-- Without a frame outcome the `read` goes on waiting (R204). -/
theorem hostObserve_reading_nothing (hr : readOutcome o = none) : hostObserve wasBusy o h = h := by
  simp only [hostObserve, htask, hr]

end Reading

/-- An edge at which the RX unit stores a byte before the last, or has no event, emits nothing (R160). -/
theorem rxEdge_out_of_no_outcome {p : Ports} {u : RxUnit} (habort : p.rxAbort = false)
    (hnone : p.rxValid = false ∨ u.cnt ≠ 31) : (rxEdge p u).out = [] := by
  cases hvalid : p.rxValid
  · rw [rxEdge_of_none (rxEventOf_none habort hvalid)]
  · have hcnt : u.cnt ≠ 31 := hnone.resolve_left (by simp [hvalid])
    rw [rxEdge_of_event (rxEventOf_byte habort hvalid), rxEffect_store p.rxData (u := { u with out := [] }) hcnt]
    rfl

/-- An edge with the last byte of a frame completes the frame (R160, R161). -/
theorem rxEdge_last {p : Ports} {u : RxUnit} (habort : p.rxAbort = false) (hvalid : p.rxValid = true)
    (hc : u.cnt = 31) :
    rxEdge p u
      = frameEffect (receivedFrame p.rxData u) (setRxCnt 0 (memWrite1 31 p.rxData { u with out := [] })) := by
  rw [rxEdge_of_event (rxEventOf_byte habort hvalid)]
  exact rxEffect_last p.rxData (u := { u with out := [] }) hc

/-- Settles O53: the edge is a read failure, the end of a frame, or neither, and its strobes say which. -/
theorem readReturnsNextOutcome : Obligations.ReadReturnsNextOutcome := by
  intro p s hrst htask
  have hreq := hostRequest_of_reading htask
  have hconf : portConflict p s.host = false := by simp [portConflict, hreq]
  have hports := drivenPorts_of_no_request p hreq
  have hends : ∀ {r}, readOutcome (outPorts (afterEvents p s)) = some r →
      (edgeResult p s).host = { s.host with task := .idle, returns := ⟨.read, r⟩ :: s.host.returns } :=
    fun hr => hostObserve_reading_outcome htask _ (hports.symm ▸ hr)
  refine ⟨_, clockEdge_eq hrst hconf, ?failure, ?lastByte, ?nothing⟩
  case failure =>
    intro habort
    refine hends (readOutcome_of_transportReadError ?_)
    rw [afterEvents, rxEdge_of_event (rxEventOf_abort habort)]
    rfl
  case lastByte =>
    intro habort hvalid hc
    have hrx := rxEdge_last habort hvalid hc
    constructor
    · intro hstart
      rw [frameEffect_of_good_start (receivedFrame_length _ _) hstart] at hrx
      refine hends ((readOutcome_of_frameDone ?_).trans ?_) <;> rw [afterEvents, hrx] <;> rfl
    · intro hstart
      have hbad := mt (startOk_iff (receivedFrame p.rxData s.rx)).mpr (Bool.eq_false_iff.mp hstart)
      rw [frameEffect_of_bad_start hbad] at hrx
      refine hends (readOutcome_of_framingError ?_)
      rw [afterEvents, hrx]
      rfl
  case nothing =>
    intro habort hnone
    exact hostObserve_reading_nothing htask _
      (readOutcome_of_silent (hports.symm ▸ rxEdge_out_of_no_outcome habort hnone))

end Sys2Proof.Machine
end

section
/-! The invariants of host and encoder (42_host_session R201, R203, R205, R206): each move of the host and each edge
keeps them, so every step does; and a closed session has no call in progress, so it stays closed. -/

namespace Sys2Proof.Machine

/-! ### Hosts that await no command -/

/-- A host that awaits no command meets the invariants if its session allows its task. -/
theorem hostInv_of_not_awaiting {s : State} (hallowed : taskAllowed s.host.task s.host.session = true)
    (hawaited : awaitedSelect s.host = none) : HostInv s :=
  ⟨hallowed, fun sel hsel => by simp [hawaited] at hsel⟩

/-- An idle host meets the invariants in every session. -/
theorem hostInv_of_idle {s : State} (hidle : s.host.task = .idle) : HostInv s :=
  hostInv_of_not_awaiting (by rw [hidle]; rfl) (by simp only [awaitedSelect, hidle])

/-- A lawful call begins a task that its session allows, and awaits no command yet (R201). -/
theorem hostInv_beginCall {c : HostCall} {s : State} (hlawful : lawfulCall c s.host.session = true) :
    HostInv (mapHost (beginCall c) s) := by
  cases c with
  | initializeSession m => exact hostInv_of_not_awaiting hlawful rfl
  | read => exact hostInv_of_not_awaiting hlawful rfl
  | sleep => exact hostInv_of_not_awaiting hlawful rfl
  | wake => exact hostInv_of_not_awaiting hlawful rfl
  | close => exact hostInv_of_idle rfl

/-- What the host sees is no part of the invariants. -/
theorem hostInv_recordSeen (x : Seen) {s : State} (h : HostInv s) : HostInv (mapHost (recordSeen x) s) := h

/-! ### The host's reaction to an edge -/

/-- Whether a session allows a command does not depend on the command's phase (R201). -/
theorem taskAllowed_command (use : CommandUse) (ph ph' : Phase) (x : Session) :
    taskAllowed (.command use ph) x = taskAllowed (.command use ph') x := by
  cases use <;> rfl

/-- After `CmdDone` the pseudo-instruction is over, or `initialize` goes on to request `WAKE` (R203, R205, R206). -/
theorem commandDone_cases (use : CommandUse) (h : HostAgent) :
    (commandDone use h).task = .idle
      ∨ (use = .initMode ∧ commandDone use h = setTask (.command .initWake .requesting) h) := by
  cases use with
  | initMode => exact .inr ⟨rfl, rfl⟩
  | initWake => exact .inl rfl
  | sleep => exact .inl rfl
  | wake => exact .inl rfl

/-- An edge inside a command goes on with it, or shows one of the two strobes that end a command (R136, R137). -/
theorem txEdge_sending_cases (p : Ports) {u : TxUnit} (hb : u.busy = true) :
    ((txEdge p u).busy = true ∧ (txEdge p u).sel = u.sel)
      ∨ OutEvent.cmdDone ∈ (txEdge p u).out
      ∨ commandErrorOf (txEdge p u).out = some u.cnt := by
  cases habort : p.txAbort
  · cases hready : p.txReady
    · rw [txEdge_of_none (hb ▸ txEventOf_busy_none habort hready)]
      exact .inl ⟨hb, rfl⟩
    · rw [txEdge_of_event (hb ▸ txEventOf_accept habort hready)]
      by_cases hc : u.cnt = 6
      · rw [txEffect_txAccept_last (u := { u with out := [] }) hb hc]
        exact .inr (.inl (by simp))
      · rw [txEffect_txAccept_earlier (u := { u with out := [] }) hb hc]
        exact .inl ⟨hb, rfl⟩
  · rw [txEdge_of_event (hb ▸ txEventOf_abort habort), txEffect_txAbort_busy (u := { u with out := [] }) hb]
    exact .inr (.inr rfl)

/-- The host's reaction to an edge while it reads leaves it as it was, or idle (R204). -/
theorem hostObserve_reading_cases {h : HostAgent} (htask : h.task = .reading) (wasBusy : Bool) (o : OutPorts) :
    hostObserve wasBusy o h = h ∨ (hostObserve wasBusy o h).task = .idle := by
  cases hr : readOutcome o with
  | none => exact .inl (hostObserve_reading_nothing htask wasBusy hr)
  | some r => exact .inr (by rw [hostObserve_reading_outcome htask wasBusy hr]; rfl)

section Edge

variable (p : Ports) {s : State} (hinv : HostInv s)
include hinv

/-- A host that awaits nothing and does not react, or ends its call, keeps the invariants. -/
theorem hostInv_edgeResult_of_kept_or_idle (hawaited : awaitedSelect s.host = none)
    (hhost : (edgeResult p s).host = s.host ∨ (edgeResult p s).host.task = .idle) : HostInv (edgeResult p s) := by
  obtain ⟨hallowed, -⟩ := hinv
  rcases hhost with hkept | hidle
  · exact hostInv_of_not_awaiting (hkept ▸ hallowed) (hkept ▸ hawaited)
  · exact hostInv_of_idle hidle

/-- A request is accepted with the encoder at its command, or goes on waiting (10_state R45). -/
theorem hostInv_edgeResult_requesting {use : CommandUse} (htask : s.host.task = .command use .requesting) :
    HostInv (edgeResult p s) := by
  cases hb : s.tx.busy
  · have hreq : hostRequest s.host = some (useSelect s.host.mode use) := by simp only [hostRequest, htask]
    have htx : (edgeResult p s).tx = startCommand (useSelect s.host.mode use) { s.tx with out := [] } := by
      rw [edgeResult_tx, drivenPorts_of_request p hreq]
      exact txEdge_of_request hb rfl
    have hhost : (edgeResult p s).host = setTask (.command use .awaiting) s.host := by
      simp [edgeResult_host, hostObserve, htask, hb]
    obtain ⟨hallowed, -⟩ := hinv
    rw [htask, taskAllowed_command use _ .awaiting] at hallowed
    rw [HostInv, htx, hhost]
    exact ⟨hallowed, fun sel hsel => ⟨rfl, Option.some.inj hsel⟩⟩
  · exact hostInv_edgeResult_of_kept_or_idle p hinv (by simp only [awaitedSelect, htask])
      (.inl (by simp [edgeResult_host, hostObserve, htask, hb]))

/-- An awaited command goes on, or its strobe moves the host on in the same step (log entry 14). -/
theorem hostInv_edgeResult_awaiting {use : CommandUse} (htask : s.host.task = .command use .awaiting) :
    HostInv (edgeResult p s) := by
  obtain ⟨hallowed, hsending⟩ := hinv
  obtain ⟨hb, hsel⟩ := hsending (useSelect s.host.mode use) (by simp only [awaitedSelect, htask])
  cases hdone : (outPorts (afterEvents (drivenPorts p s.host) s)).cmdDone with
  | true =>
    have hhost : (edgeResult p s).host = commandDone use s.host := hostObserve_awaiting_done htask _ hdone
    rcases commandDone_cases use s.host with hidle | ⟨rfl, hwake⟩
    · exact hostInv_of_idle (hhost ▸ hidle)
    · rw [htask] at hallowed
      refine hostInv_of_not_awaiting ?_ ?_ <;> rw [hhost, hwake]
      · exact hallowed
      · rfl
  | false =>
    cases herr : (outPorts (afterEvents (drivenPorts p s.host) s)).errCmdWrite with
    | some count =>
      have hhost : (edgeResult p s).host = commandFailed use count s.host :=
        hostObserve_awaiting_failed htask _ hdone herr
      exact hostInv_of_idle (hhost ▸ rfl)
    | none =>
      have hhost : (edgeResult p s).host = s.host := hostObserve_awaiting_nothing htask _ hdone herr
      have hgoes : (edgeResult p s).tx.busy = true ∧ (edgeResult p s).tx.sel = s.tx.sel := by
        rcases txEdge_sending_cases (drivenPorts p s.host) hb with hgoes | hdone' | herr'
        · exact hgoes
        · exact absurd (hdone.symm.trans (List.contains_iff_mem.mpr hdone')) (by decide)
        · exact absurd (herr.symm.trans herr') (by simp)
      obtain ⟨hb', hsel'⟩ := hgoes
      rw [HostInv, hhost]
      exact ⟨hallowed, fun sel h => ⟨hb', hsel'.trans (hsending sel h).2⟩⟩

/-- Whatever the ports, an edge keeps the invariants. -/
theorem hostInv_edgeResult : HostInv (edgeResult p s) := by
  cases htask : s.host.task with
  | idle =>
    exact hostInv_edgeResult_of_kept_or_idle p hinv (by simp only [awaitedSelect, htask])
      (.inl (by simp only [edgeResult_host, hostObserve, htask]))
  | reading =>
    exact hostInv_edgeResult_of_kept_or_idle p hinv (by simp only [awaitedSelect, htask])
      (hostObserve_reading_cases htask _ _)
  | command use ph =>
    cases ph with
    | requesting => exact hostInv_edgeResult_requesting p hinv htask
    | awaiting => exact hostInv_edgeResult_awaiting p hinv htask

end Edge

/-! ### Every step -/

/-- A clock edge that answers keeps the invariants; a reset leaves the host idle (log entry 6). -/
theorem hostInv_clockEdge {p : Ports} {s t : State} (hinv : HostInv s) (h : clockEdge p s = .next t) : HostInv t := by
  cases hrst : p.rst
  · cases hconf : portConflict p s.host
    · rw [clockEdge_eq hrst hconf] at h
      cases h
      exact hostInv_edgeResult p hinv
    · rw [clockEdge_of_conflict hrst hconf] at h
      cases h
  · rw [clockEdge_of_rst hrst] at h
    cases h
    exact hostInv_of_idle rfl

/-- Settles O38: a step is an edge, a call, a look or a read of `F`, and each keeps the invariants. -/
theorem stepKeepsHostInvariant : Obligations.StepKeepsHostInvariant := by
  intro s t hinv h
  have htaken : HostInv (takeStimulus s) := hinv
  rcases step_next h with ⟨p, -, he⟩ | ⟨c, -, hc⟩ | ⟨l, -, hl⟩ | ⟨-, hr⟩
  · exact hostInv_clockEdge htaken he
  · rcases hostCall_next_cases hc with ⟨-, rfl⟩ | ⟨-, hlawful, rfl⟩
    · exact hostInv_of_idle rfl
    · exact hostInv_beginCall hlawful
  · rw [hostLook_next hl]; exact hostInv_recordSeen _ htaken
  · rw [hostReadF_next hr]; exact hostInv_recordSeen _ htaken

/-- `Closed` allows no task (R201, R208). -/
theorem task_idle_of_closed {s : State} (hinv : HostInv s) (hclosed : s.host.session = .closed) :
    s.host.task = .idle := by
  obtain ⟨hallowed, -⟩ := hinv
  rw [hclosed] at hallowed
  cases htask : s.host.task with
  | idle => rfl
  | reading => simp [htask, taskAllowed] at hallowed
  | command use ph => cases use <;> simp [htask, taskAllowed] at hallowed

/-- Settles O48: the host of a closed session is idle, so no edge moves it, and a call, a look or a read of `F` keeps
the session. -/
theorem closedStaysClosed : Obligations.ClosedStaysClosed := by
  intro s t hinv h hreset hclosed
  have hidle : (takeStimulus s).host.task = .idle := task_idle_of_closed hinv hclosed
  rcases step_next h with ⟨p, hp, he⟩ | ⟨c, -, hc⟩ | ⟨l, -, hl⟩ | ⟨-, hr⟩
  · have hrst : p.rst = false := by simpa only [nextIsReset, hp] using hreset
    rw [clockEdge_of_idle_host hrst hidle] at he
    rw [edgeEvents_host he]
    exact hclosed
  · rw [hostCall_closed c (s := takeStimulus s) hclosed] at hc
    cases hc
    exact hclosed
  · rw [hostLook_next hl]; exact hclosed
  · rw [hostReadF_next hr]; exact hclosed

end Sys2Proof.Machine
end

section
/-! The exceptions (60_exceptions R230, R233): the codes of the table, and what the strobes of one edge can hold. -/

namespace Sys2Proof.Machine

/-! ### The codes -/

/-- Code 0 is left to "no exception" (R230). -/
theorem exceptionCode_ne_zero (e : Exception) : exceptionCode e ≠ 0 := by
  cases e with
  | framingError got => exact Nat.succ_ne_zero 0
  | transportReadError count => exact Nat.succ_ne_zero 1
  | commandWriteError count => exact Nat.succ_ne_zero 2

/-- The code of a unit's output events is 0 exactly if no exception is among them (R230). -/
theorem exceptionNumber_raisedName_eq_zero_iff (es : List OutEvent) :
    exceptionNumber (raisedName es) = 0 ↔ raisedCount es = 0 := by
  induction es with
  | nil => exact iff_of_true rfl rfl
  | cons e es ih =>
    cases e with
    | raised x => exact iff_of_false (exceptionCode_ne_zero x) (Nat.succ_ne_zero _)
    | txByte b => exact ih
    | cmdDone => exact ih
    | frameDone => exact ih

/-- Settles O58: the codes of the rows are the table's, and an induction over the output events says when theirs is 0. -/
theorem exceptionCodes : Obligations.ExceptionCodes :=
  ⟨rfl, rfl, rfl, rfl, rfl, rfl, fun _ => rfl, fun _ => rfl, fun _ => rfl, fun _ => rfl, rfl, rfl, rfl,
    fun _ _ => rfl, fun _ => rfl, fun _ _ => rfl, exceptionNumber_raisedName_eq_zero_iff⟩

/-! ### The strobes of an edge -/

/-- The strobes an edge can leave in the RX unit: none, a reading, or one of the unit's own exceptions (R231). -/
theorem rxEdge_out_cases (p : Ports) (u : RxUnit) :
    (rxEdge p u).out = [] ∨ (rxEdge p u).out = [.frameDone]
      ∨ (∃ got, (rxEdge p u).out = [.raised (.framingError got)])
      ∨ ∃ count, (rxEdge p u).out = [.raised (.transportReadError count)] := by
  rcases rxEdge_cases p u with h | h | ⟨-, h⟩ | ⟨-, h⟩ <;> rw [h]
  · exact .inl rfl
  · exact .inr (.inr (.inr ⟨_, rfl⟩))
  · exact .inl rfl
  · rcases frameEffect_cases (receivedFrame p.rxData u) (setRxCnt 0 (memWrite1 u.cnt p.rxData { u with out := [] }))
      with h | h <;> rw [h]
    · exact .inr (.inl rfl)
    · exact .inr (.inr (.inl ⟨_, rfl⟩))

/-- What an event can add to the strobes of the TX unit: nothing, a byte, the last byte and `CmdDone`, or the unit's own
exception (R136, R137). -/
theorem txEffect_out_cases (e : InEvent) (u : TxUnit) :
    (txEffect e u).out = u.out ∨ (∃ b, (txEffect e u).out = u.out ++ [.txByte b])
      ∨ (∃ b, (txEffect e u).out = u.out ++ [.txByte b, .cmdDone])
      ∨ ∃ count, (txEffect e u).out = u.out ++ [.raised (.commandWriteError count)] := by
  cases e with
  | cmdReq sel =>
    cases hb : u.busy
    · rw [txEffect_cmdReq_idle sel hb]; exact .inl rfl
    · rw [txEffect_cmdReq_busy sel hb]; exact .inl rfl
  | txAccept =>
    cases hb : u.busy
    · rw [txEffect_txAccept_idle hb]; exact .inl rfl
    · by_cases hc : u.cnt = 6
      · exact .inr (.inr (.inl ⟨_, txEffect_txAccept_out_last hb hc⟩))
      · exact .inr (.inl ⟨_, txEffect_txAccept_out_earlier hb hc⟩)
  | txAbort =>
    cases hb : u.busy
    · rw [txEffect_txAbort_idle hb]; exact .inl rfl
    · exact .inr (.inr (.inr ⟨_, txEffect_txAbort_out hb⟩))
  | reset => exact .inl rfl
  | rxByte b => exact .inl rfl
  | rxAbort => exact .inl rfl

/-- The strobes an edge can leave in the TX unit (R43, R136, R137). -/
theorem txEdge_out_cases (p : Ports) (u : TxUnit) :
    (txEdge p u).out = [] ∨ (∃ b, (txEdge p u).out = [.txByte b]) ∨ (∃ b, (txEdge p u).out = [.txByte b, .cmdDone])
      ∨ ∃ count, (txEdge p u).out = [.raised (.commandWriteError count)] := by
  unfold txEdge
  split
  · exact txEffect_out_cases _ { u with out := [] }
  · exact .inl rfl

/-! ### The exceptions of an edge -/

/-- An edge raises at most one exception of the RX unit, a framing or a read error (R230, R233). -/
theorem rxEdge_raises_own (p : Ports) (u : RxUnit) :
    raisedCount (rxEdge p u).out ≤ 1
      ∧ raisedName (rxEdge p u).out ∈ [ExceptionName.none, .framingError, .transportReadError] := by
  rcases rxEdge_out_cases p u with h | h | ⟨_, h⟩ | ⟨_, h⟩ <;> rw [h] <;> simp [exceptionName]

/-- An edge raises at most one exception of the TX unit, a write error (R230, R233). -/
theorem txEdge_raises_own (p : Ports) (u : TxUnit) :
    raisedCount (txEdge p u).out ≤ 1 ∧ raisedName (txEdge p u).out ∈ [ExceptionName.none, .commandWriteError] := by
  rcases txEdge_out_cases p u with h | ⟨_, h⟩ | ⟨_, h⟩ | ⟨_, h⟩ <;> rw [h] <;> simp [exceptionName]

/-- An edge that answers is a reset, or the events of both units and then the host (R44). -/
theorem clockEdge_next_edgeResult {p : Ports} {s t : State} (h : clockEdge p s = .next t) :
    (p.rst = true ∧ t = resetEvent s) ∨ (p.rst = false ∧ t = edgeResult p s) := by
  cases hrst : p.rst
  · cases hconf : portConflict p s.host
    · rw [clockEdge_eq hrst hconf] at h
      cases h
      exact .inr ⟨rfl, rfl⟩
    · rw [clockEdge_of_conflict hrst hconf] at h
      cases h
  · rw [clockEdge_of_rst hrst] at h
    cases h
    exact .inl ⟨rfl, rfl⟩

/-- Settles O57: a reset leaves no strobe in either unit, and any other edge leaves in each unit at most one exception,
its own. -/
theorem edgeRaisesAtMostOnePerUnit : Obligations.EdgeRaisesAtMostOnePerUnit := by
  intro p s t h
  rcases clockEdge_next_edgeResult h with ⟨-, rfl⟩ | ⟨hrst, rfl⟩
  · have hrx : (resetEvent s).rx.out = [] := rfl
    have htx : (resetEvent s).tx.out = [] := rfl
    simp [hrx, htx]
  · obtain ⟨hrxCount, hrxName⟩ := rxEdge_raises_own p s.rx
    obtain ⟨htxCount, htxName⟩ := txEdge_raises_own (drivenPorts p s.host) s.tx
    rw [edgeResult_rx, edgeResult_tx]
    exact ⟨hrxCount, htxCount, hrxName, htxName, fun hreset => absurd (hrst.symm.trans hreset) (by decide)⟩

end Sys2Proof.Machine
end

section
/-! What a reset leaves of the block (70_reset_and_hazards R270). -/

namespace Sys2Proof.Machine

/-- Settles O24: the event puts each unit at its reset values, save for the history and the draw, and an edge with `rst`
is that event whatever else is on the ports. -/
theorem resetEventClearsTheBlock : Obligations.ResetEventClearsTheBlock := by
  intro s
  have hfields (k : Fin 15) : (resetRx s.rx).f.get k = 0x0000 := Fields.get_ofFn _ k
  have hedge (p : Ports) (hrst : p.rst = true) : clockEdge p s = .next (resetEvent s) := clockEdge_of_rst hrst s
  exact ⟨resetEvent s, rfl, resetRx_cnt s.rx, hfields, rfl, resetRx_present s.rx, rfl, rfl, rfl, rfl, rfl, hedge⟩

end Sys2Proof.Machine
end
